-- ==== Sys2Proof/Word.lean ====
section
/-! DEFINITION. The word types of LMS-CORE: a byte, an operand slot, a command word, a wire pair
(00_scope.md R6; 30_encoding.md R60, R61, R70). -/

namespace Sys2Proof

/-- A byte, bit 0 the least significant (R6). -/
abbrev Byte := BitVec 8

/-- One 16-bit operand slot `a[i]` of the command word (R61). -/
abbrev Slot := BitVec 16

/-- The 136-bit command word `W` (R60). -/
abbrev CommandWord := BitVec 136

/-- A wire pair as a 16-bit pattern in transmission order, data byte in bits 15:8 and register
address in bits 7:0 (R70, R72). -/
abbrev PairWord := BitVec 16

end Sys2Proof
end

