-- ==== Sys2Proof/Config.lean ====
section
/-! DEFINITION. The implementation parameters of 00_scope.md R5 as plain data, the constants the spec
leaves OPEN (no value, no body), and the free values of the model. -/

namespace Sys2Proof

/-- The two font modes (R17); R5 and D30 number them 0 and 1. -/
inductive Font where
  | f5x7
  | f8x8
  deriving DecidableEq, Repr

/-- One entry of the external glyph table (R26, R33): the column bytes of one character in one font
mode, column 0 the leftmost. -/
structure GlyphEntry where
  code : Byte
  font : Font
  columns : List Byte
  deriving DecidableEq, Repr

/-- The ten constants of the chain's register map (R5, R24, D13). -/
structure ChipMap where
  regDecode : Byte
  regIntensity : Byte
  regScanLimit : Byte
  regShutdown : Byte
  regDisplayTest : Byte
  valDecodeNone : Byte
  valScanAll : Byte
  valTestOff : Byte
  valShutdownOn : Byte
  valShutdownOff : Byte
  deriving DecidableEq, Repr

/-- The implementation parameters of R5, which the model takes as an argument: they stand in the
state as constants no step writes (log 1).  `glyphs` is the GlyphSource as a table;
`glyphBits8x8` and `glyphBits5x7` list `GLYPH_BIT(f, row)` for row 0, 1, … -/
structure Params where
  maxDevices : Nat
  initIntensity : Fin 16
  initScrollDelay : BitVec 16
  glyphs : List GlyphEntry
  glyphBits8x8 : List Nat
  glyphBits5x7 : List Nat
  chip : ChipMap
  deriving DecidableEq, Repr

namespace Config

/-- `MAX_DEVICES - 1`: OPEN, any natural number (D7, log 1). -/
opaque maxDevicesLessOne : Nat

/-- `MAX_DEVICES`: OPEN, any natural number `>= 1` (R5, D7). -/
def maxDevices : Nat := maxDevicesLessOne + 1

/-- `INIT_INTENSITY`: OPEN, any of `0..15` (R5, D8). -/
opaque initIntensity : Fin 16

/-- `INIT_SCROLL_DELAY`: OPEN, any of `0..65535` (R5, D9). -/
opaque initScrollDelay : BitVec 16

/-- The GlyphSource: OPEN, any table (R5, D29). -/
opaque glyphTable : List GlyphEntry

/-- The free choice behind `GLYPH_BIT`: where each bit number stands in the order of the rows (D27, log 12). -/
opaque glyphBitPlace : Font → Nat → Nat

/-- The bit numbers `0..k-1` in the order the places name: every order of `0..k-1` is reached by some
choice of places, and every choice gives an order of them (log 12). -/
def bitOrder (place : Nat → Nat) : Nat → List Nat
  | 0 => []
  | k + 1 => (bitOrder place k).insertIdx (place k % (k + 1)) k

/-- The chain's register map: the defaults of R5 (D13, G1: from general knowledge, log 2). -/
def chip : ChipMap where
  regDecode := 0x09
  regIntensity := 0x0A
  regScanLimit := 0x0B
  regShutdown := 0x0C
  regDisplayTest := 0x0F
  valDecodeNone := 0x00
  valScanAll := 0x07
  valTestOff := 0x00
  valShutdownOn := 0x00
  valShutdownOff := 0x01

/-- The parameters of the machine after reset: the OPEN ones are the constants above (log 1). -/
def params : Params where
  maxDevices := maxDevices
  initIntensity := initIntensity
  initScrollDelay := initScrollDelay
  glyphs := glyphTable
  glyphBits8x8 := bitOrder (glyphBitPlace .f8x8) 8
  glyphBits5x7 := (bitOrder (glyphBitPlace .f5x7) 8).take 7
  chip := chip

/-- Bits 30:0 of MAPADDR's response for a pixel out of range, a fresh free value for each number
(R92, U7, log 3). -/
opaque freeMapBits : Nat → BitVec 31

/-- The response value of a query that is ignored while UNCONFIGURED, a fresh free value for each number
(R31 and R66 state none, log 8). -/
opaque freeQueryValue : Nat → BitVec 32

/-- What register `a` of chain device `d` holds before anything is written to it (R35, U9, log 4). -/
opaque chipPowerOn : Nat → Byte → Byte

end Config

end Sys2Proof
end

