-- ==== Sys2Proof/Syntax.lean ====
section
/-! DEFINITION. The instructions of LMS-CORE, one constructor per row of spec/opcode_table.json: the 25
commands (30_encoding.md R65, operand slots kept as 16-bit slots in slot order) and the 13 wire pairs
(R72); and what one transfer on an input port carries. -/

namespace Sys2Proof

inductive Instr where
  /-- `0x01` CONSTRUCT rows, cols (R190). -/
  | construct (rows cols : Slot)
  /-- `0x02` SETINTENSITY v (R191). -/
  | setIntensity (v : Slot)
  /-- `0x03` SETSHUTDOWN b (R192). -/
  | setShutdown (b : Slot)
  /-- `0x04` SETFONT f (R193). -/
  | setFont (f : Slot)
  /-- `0x05` SETSCROLLDELAY t (R194). -/
  | setScrollDelay (t : Slot)
  /-- `0x10` MAPADDR x, y (R92). -/
  | mapAddr (x y : Slot)
  /-- `0x11` SETLED x, y, on (R102). -/
  | setLed (x y on : Slot)
  /-- `0x12` GETLED x, y (R103). -/
  | getLed (x y : Slot)
  /-- `0x13` CLEARBUF (R104). -/
  | clearBuf
  /-- `0x20` BCAST addr, val (R115). -/
  | bcast (addr val : Slot)
  /-- `0x21` REFRESHROW row (R116). -/
  | refreshRow (row : Slot)
  /-- `0x22` REFRESH (R117). -/
  | refresh
  /-- `0x23` CLRREFRESH (R118). -/
  | clrRefresh
  /-- `0x30` POINT x, y (R130). -/
  | point (x y : Slot)
  /-- `0x31` DRAWLINE x1, y1, x2, y2 (R131). -/
  | drawLine (x1 y1 x2 y2 : Slot)
  /-- `0x32` DRAWTRI x1, y1, x2, y2, x3, y3 (R132). -/
  | drawTri (x1 y1 x2 y2 x3 y3 : Slot)
  /-- `0x33` DRAWQUAD x1, y1, x2, y2, x3, y3, x4, y4 (R133). -/
  | drawQuad (x1 y1 x2 y2 x3 y3 x4 y4 : Slot)
  /-- `0x34` DRAWRECT x, y, w, h (R134). -/
  | drawRect (x y w h : Slot)
  /-- `0x35` DRAWCIRCLE h, k, r (R135). -/
  | drawCircle (h k r : Slot)
  /-- `0x36` DRAWELLIPSE h, k, a, b (R136). -/
  | drawEllipse (h k a b : Slot)
  /-- `0x40` SHIFTROW mr (R161). -/
  | shiftRow (mr : Slot)
  /-- `0x41` SCROLLGLYPH mr, n; payload of n column bytes (R163). -/
  | scrollGlyph (mr n : Slot) (payload : List Byte)
  /-- `0x42` SCROLLCHAR c, mr (R164). -/
  | scrollChar (c mr : Slot)
  /-- `0x50` DRAWCHAR c, x, y (R177). -/
  | drawChar (c x y : Slot)
  /-- `0x51` DRAWWORD count, x, y; payload of count character codes (R178). -/
  | drawWord (count x y : Slot) (payload : List Byte)
  /-- W.DIGIT0: `dddddddd 00001000` (R72, R113). -/
  | wDigit0 (d : Byte)
  /-- W.DIGIT1: `dddddddd 00000111`. -/
  | wDigit1 (d : Byte)
  /-- W.DIGIT2: `dddddddd 00000110`. -/
  | wDigit2 (d : Byte)
  /-- W.DIGIT3: `dddddddd 00000101`. -/
  | wDigit3 (d : Byte)
  /-- W.DIGIT4: `dddddddd 00000100`. -/
  | wDigit4 (d : Byte)
  /-- W.DIGIT5: `dddddddd 00000011`. -/
  | wDigit5 (d : Byte)
  /-- W.DIGIT6: `dddddddd 00000010`. -/
  | wDigit6 (d : Byte)
  /-- W.DIGIT7: `dddddddd 00000001`. -/
  | wDigit7 (d : Byte)
  /-- W.DECODE: `00000000 00001001` (R72, R190). -/
  | wDecode
  /-- W.INTENSITY: `0000vvvv 00001010` (R72, R191). -/
  | wIntensity (v : BitVec 4)
  /-- W.SCANLIMIT: `00000111 00001011` (R72, R190). -/
  | wScanLimit
  /-- W.SHUTDOWN: `0000000n 00001100`, n = 1 wakes (R72, R192). -/
  | wShutdown (n : Bool)
  /-- W.DISPLAYTEST: `00000000 00001111` (R72, R190). -/
  | wDisplayTest
  deriving DecidableEq, Repr

/-- What one transfer on an input port carries: a command `(W, PL)` (R60), or a wire pair (R70). -/
inductive Transfer where
  | command (word : CommandWord) (payload : List Byte)
  | pair (bits : PairWord)
  deriving DecidableEq, Repr

end Sys2Proof
end

