-- ==== Sys2Proof/WellFormed.lean ====
section
/-! DEFINITION. The check an instruction term must pass to have an encoding: a command with a payload
carries exactly as many payload bytes as its count operand says (30_encoding.md R63). -/

namespace Sys2Proof

/-- Well-formedness of an instruction (R63).  Every operand value is admitted (R62). -/
def Instr.wellFormed : Instr → Bool
  | .scrollGlyph _ n payload => payload.length == n.toNat
  | .drawWord count _ _ payload => payload.length == count.toNat
  | .construct .. | .setIntensity .. | .setShutdown .. | .setFont .. | .setScrollDelay ..
  | .mapAddr .. | .setLed .. | .getLed .. | .clearBuf
  | .bcast .. | .refreshRow .. | .refresh | .clrRefresh
  | .point .. | .drawLine .. | .drawTri .. | .drawQuad .. | .drawRect .. | .drawCircle ..
  | .drawEllipse .. | .shiftRow .. | .scrollChar .. | .drawChar ..
  | .wDigit0 .. | .wDigit1 .. | .wDigit2 .. | .wDigit3 .. | .wDigit4 .. | .wDigit5 ..
  | .wDigit6 .. | .wDigit7 .. | .wDecode | .wIntensity .. | .wScanLimit | .wShutdown ..
  | .wDisplayTest => true

end Sys2Proof
end

