-- ==== Sys2Proof/Decode.lean ====
section
/-! DEFINITION. Decoding of command words (30_encoding.md R61 to R66) and of wire pairs (R70, R72),
total on any transfer and rejecting by name; then the encoder, written from the same tables; then the
host's entry point decodeTableWord. -/

namespace Sys2Proof

/-- Why a transfer names no instruction. -/
inductive DecodeError where
  /-- The opcode is not in the map of R65 (R66 (1)). -/
  | reservedOpcode (op : Byte)
  /-- The payload length differs from the count operand (R63, R66 (4)). -/
  | payloadLength (count given : Nat)
  /-- The pair is none of the register writes of R72. -/
  | unlistedPair (bits : PairWord)
  deriving DecidableEq, Repr

/-- The opcode field `W[135:128]` (R61). -/
def opcode (w : CommandWord) : Byte := w.extractLsb' 128 8

/-- Operand slot `a[i] = W[127-16*i : 112-16*i]` (R61). -/
def slot (w : CommandWord) (i : Nat) : Slot := w.extractLsb' (112 - 16 * i) 16

/-- Decoding of a command `(W, PL)`: the opcode map of R65, the slots of R62, the payload check of R63.
Unused slots and the payload of a command that takes none are ignored (R62, D4). -/
def decodeCommand (w : CommandWord) (payload : List Byte) : Except DecodeError Instr :=
  match (opcode w).toNat with
  | 0x01 => .ok (.construct (slot w 0) (slot w 1))
  | 0x02 => .ok (.setIntensity (slot w 0))
  | 0x03 => .ok (.setShutdown (slot w 0))
  | 0x04 => .ok (.setFont (slot w 0))
  | 0x05 => .ok (.setScrollDelay (slot w 0))
  | 0x10 => .ok (.mapAddr (slot w 0) (slot w 1))
  | 0x11 => .ok (.setLed (slot w 0) (slot w 1) (slot w 2))
  | 0x12 => .ok (.getLed (slot w 0) (slot w 1))
  | 0x13 => .ok .clearBuf
  | 0x20 => .ok (.bcast (slot w 0) (slot w 1))
  | 0x21 => .ok (.refreshRow (slot w 0))
  | 0x22 => .ok .refresh
  | 0x23 => .ok .clrRefresh
  | 0x30 => .ok (.point (slot w 0) (slot w 1))
  | 0x31 => .ok (.drawLine (slot w 0) (slot w 1) (slot w 2) (slot w 3))
  | 0x32 => .ok (.drawTri (slot w 0) (slot w 1) (slot w 2) (slot w 3) (slot w 4) (slot w 5))
  | 0x33 => .ok (.drawQuad (slot w 0) (slot w 1) (slot w 2) (slot w 3)
      (slot w 4) (slot w 5) (slot w 6) (slot w 7))
  | 0x34 => .ok (.drawRect (slot w 0) (slot w 1) (slot w 2) (slot w 3))
  | 0x35 => .ok (.drawCircle (slot w 0) (slot w 1) (slot w 2))
  | 0x36 => .ok (.drawEllipse (slot w 0) (slot w 1) (slot w 2) (slot w 3))
  | 0x40 => .ok (.shiftRow (slot w 0))
  | 0x41 =>
    if payload.length = (slot w 1).toNat then .ok (.scrollGlyph (slot w 0) (slot w 1) payload)
    else .error (.payloadLength (slot w 1).toNat payload.length)
  | 0x42 => .ok (.scrollChar (slot w 0) (slot w 1))
  | 0x50 => .ok (.drawChar (slot w 0) (slot w 1) (slot w 2))
  | 0x51 =>
    if payload.length = (slot w 0).toNat then
      .ok (.drawWord (slot w 0) (slot w 1) (slot w 2) payload)
    else .error (.payloadLength (slot w 0).toNat payload.length)
  | _ => .error (.reservedOpcode (opcode w))

/-- The data byte of a pair, the first byte sent (R70). -/
def pairData (p : PairWord) : Byte := p.extractLsb' 8 8

/-- The register-address byte of a pair, the second byte sent (R70). -/
def pairAddr (p : PairWord) : Byte := p.extractLsb' 0 8

/-- Decoding of a wire pair: the register writes of R72. -/
def decodePair (p : PairWord) : Except DecodeError Instr :=
  match (pairAddr p).toNat with
  | 0x08 => .ok (.wDigit0 (pairData p))
  | 0x07 => .ok (.wDigit1 (pairData p))
  | 0x06 => .ok (.wDigit2 (pairData p))
  | 0x05 => .ok (.wDigit3 (pairData p))
  | 0x04 => .ok (.wDigit4 (pairData p))
  | 0x03 => .ok (.wDigit5 (pairData p))
  | 0x02 => .ok (.wDigit6 (pairData p))
  | 0x01 => .ok (.wDigit7 (pairData p))
  | 0x09 => if (pairData p).toNat = 0 then .ok .wDecode else .error (.unlistedPair p)
  | 0x0A =>
    if (pairData p).toNat < 16 then .ok (.wIntensity ((pairData p).extractLsb' 0 4))
    else .error (.unlistedPair p)
  | 0x0B => if (pairData p).toNat = 7 then .ok .wScanLimit else .error (.unlistedPair p)
  | 0x0C =>
    if (pairData p).toNat < 2 then .ok (.wShutdown ((pairData p).getLsbD 0))
    else .error (.unlistedPair p)
  | 0x0F => if (pairData p).toNat = 0 then .ok .wDisplayTest else .error (.unlistedPair p)
  | _ => .error (.unlistedPair p)

/-- Decoding of one transfer. -/
def decode : Transfer → Except DecodeError Instr
  | .command w payload => decodeCommand w payload
  | .pair p => decodePair p

/-- The command word with the given opcode and slots (R61). -/
def commandWord (op : Byte) (a0 a1 a2 a3 a4 a5 a6 a7 : Slot) : CommandWord :=
  op ++ (a0 ++ (a1 ++ (a2 ++ (a3 ++ (a4 ++ (a5 ++ (a6 ++ a7)))))))

/-- The pair word of a data byte and a register address (R70). -/
def pairWord (data addr : Byte) : PairWord := data ++ addr

/-- The transfer that stands for an instruction (R61, R62, R65; R72); unused slots are 0 (U17). -/
def encode : Instr → Transfer
  | .construct rows cols => .command (commandWord 0x01 rows cols 0 0 0 0 0 0) []
  | .setIntensity v => .command (commandWord 0x02 v 0 0 0 0 0 0 0) []
  | .setShutdown b => .command (commandWord 0x03 b 0 0 0 0 0 0 0) []
  | .setFont f => .command (commandWord 0x04 f 0 0 0 0 0 0 0) []
  | .setScrollDelay t => .command (commandWord 0x05 t 0 0 0 0 0 0 0) []
  | .mapAddr x y => .command (commandWord 0x10 x y 0 0 0 0 0 0) []
  | .setLed x y on => .command (commandWord 0x11 x y on 0 0 0 0 0) []
  | .getLed x y => .command (commandWord 0x12 x y 0 0 0 0 0 0) []
  | .clearBuf => .command (commandWord 0x13 0 0 0 0 0 0 0 0) []
  | .bcast addr val => .command (commandWord 0x20 addr val 0 0 0 0 0 0) []
  | .refreshRow row => .command (commandWord 0x21 row 0 0 0 0 0 0 0) []
  | .refresh => .command (commandWord 0x22 0 0 0 0 0 0 0 0) []
  | .clrRefresh => .command (commandWord 0x23 0 0 0 0 0 0 0 0) []
  | .point x y => .command (commandWord 0x30 x y 0 0 0 0 0 0) []
  | .drawLine x1 y1 x2 y2 => .command (commandWord 0x31 x1 y1 x2 y2 0 0 0 0) []
  | .drawTri x1 y1 x2 y2 x3 y3 => .command (commandWord 0x32 x1 y1 x2 y2 x3 y3 0 0) []
  | .drawQuad x1 y1 x2 y2 x3 y3 x4 y4 => .command (commandWord 0x33 x1 y1 x2 y2 x3 y3 x4 y4) []
  | .drawRect x y w h => .command (commandWord 0x34 x y w h 0 0 0 0) []
  | .drawCircle h k r => .command (commandWord 0x35 h k r 0 0 0 0 0) []
  | .drawEllipse h k a b => .command (commandWord 0x36 h k a b 0 0 0 0) []
  | .shiftRow mr => .command (commandWord 0x40 mr 0 0 0 0 0 0 0) []
  | .scrollGlyph mr n payload => .command (commandWord 0x41 mr n 0 0 0 0 0 0) payload
  | .scrollChar c mr => .command (commandWord 0x42 c mr 0 0 0 0 0 0) []
  | .drawChar c x y => .command (commandWord 0x50 c x y 0 0 0 0 0) []
  | .drawWord count x y payload => .command (commandWord 0x51 count x y 0 0 0 0 0) payload
  | .wDigit0 d => .pair (pairWord d 0x08)
  | .wDigit1 d => .pair (pairWord d 0x07)
  | .wDigit2 d => .pair (pairWord d 0x06)
  | .wDigit3 d => .pair (pairWord d 0x05)
  | .wDigit4 d => .pair (pairWord d 0x04)
  | .wDigit5 d => .pair (pairWord d 0x03)
  | .wDigit6 d => .pair (pairWord d 0x02)
  | .wDigit7 d => .pair (pairWord d 0x01)
  | .wDecode => .pair (pairWord 0x00 0x09)
  | .wIntensity v => .pair (pairWord (v.setWidth 8) 0x0A)
  | .wScanLimit => .pair (pairWord 0x07 0x0B)
  | .wShutdown n => .pair (pairWord (if n then 0x01 else 0x00) 0x0C)
  | .wDisplayTest => .pair (pairWord 0x00 0x0F)

/-- The transfer whose bits the opcode table's numbering gives as `w`: a 136-bit row is a command word
as one number, with a payload of zero bytes as long as its count operand asks for; a 16-bit row
is a wire pair (R61, R63, R72; log 14).  Other lengths name no row. -/
def tableTransfer (nbits w : Nat) : Option Transfer :=
  let word : CommandWord := BitVec.ofNat 136 w
  if nbits = 136 then
    match (opcode word).toNat with
    | 0x41 => some (.command word (List.replicate (slot word 1).toNat 0))
    | 0x51 => some (.command word (List.replicate (slot word 0).toNat 0))
    | _ => some (.command word [])
  else if nbits = 16 then some (.pair (BitVec.ofNat 16 w))
  else none

/-- The instruction the decoder reads from a row's word (log 14). -/
def decodeTableWord (nbits w : Nat) : Option Instr :=
  match tableTransfer nbits w with
  | some t => (decode t).toOption
  | none => none

end Sys2Proof
end

