-- ==== Sys2Proof/Machine/Bits.lean ====
section
/-! DEFINITION. The byte operations of 00_scope.md R6. -/

namespace Sys2Proof.Machine

/-- `bit(v, b)`, as a Boolean (R6). -/
def bit (v : Byte) (b : Nat) : Bool := v.getLsbD b

/-- A byte with bit `b` set or cleared: `v | (1 << b)`, `v & ~(1 << b)` (R6, R100). -/
def withBit (v : Byte) (b : Nat) (on : Bool) : Byte :=
  if on then v ||| (1#8 <<< b) else v &&& ~~~(1#8 <<< b)

/-- `v >> 1`, logical (R6). -/
def shiftRight1 (v : Byte) : Byte := v >>> 1

end Sys2Proof.Machine
end

