-- ==== Sys2Proof/Machine/Memory.lean ====
section
/-! DEFINITION. The two byte stores of LMS-CORE as lists of (address, byte) cells in one canonical form:
the FrameBuffer (20_memory.md R40, R52) and the chain's registers (10_state.md R24, R25). -/

namespace Sys2Proof.Machine

/-- The FrameBuffer's bytes by byte index.  An index that is not listed reads 0x00, the value CONSTRUCT
and CLEARBUF give every byte (R35, R104; log 10). -/
abbrev Memory := List Host.Cell

/-- `MemRead(a, 1)` (R52). -/
def Memory.read : Memory → Nat → Byte
  | [], _ => 0#8
  | (k, v) :: rest, a => if k = a then v else Memory.read rest a

/-- `MemWrite(a, 1, v)` (R52), keeping the canonical form. -/
def Memory.write : Memory → Nat → Byte → Memory
  | [], a, v => if v = 0#8 then [] else [(a, v)]
  | (k, w) :: rest, a, v =>
    if a < k then (if v = 0#8 then (k, w) :: rest else (a, v) :: (k, w) :: rest)
    else if a = k then (if v = 0#8 then rest else (a, v) :: rest)
    else (k, w) :: Memory.write rest a v

/-- Canonical from address `lo` on: addresses strictly rising, no byte equal to 0x00. -/
def Memory.wfFrom : Nat → Memory → Bool
  | _, [] => true
  | lo, (k, v) :: rest => decide (lo ≤ k) && decide (v ≠ 0#8) && Memory.wfFrom (k + 1) rest

/-- The canonical form of a FrameBuffer. -/
def Memory.wf (m : Memory) : Bool := Memory.wfFrom 0 m

/-- Every listed address is below `n`. -/
def Memory.below (n : Nat) : Memory → Bool
  | [] => true
  | (k, _) :: rest => decide (k < n) && Memory.below n rest

/-- The registers of the chain's devices that have been written, keyed by `chainKey` (R24, R25). -/
abbrev Chain := List Host.Cell

/-- The key of register `addr` of device `d`. -/
def chainKey (d : Nat) (addr : Byte) : Nat := 256 * d + addr.toNat

/-- The value last written under a key, none if nothing was written there. -/
def Chain.find? : Chain → Nat → Option Byte
  | [], _ => none
  | (k, v) :: rest, a => if k = a then some v else Chain.find? rest a

/-- Replace the value under a key, keeping the keys strictly rising. -/
def Chain.insert : Chain → Nat → Byte → Chain
  | [], a, v => [(a, v)]
  | (k, w) :: rest, a, v =>
    if a < k then (a, v) :: (k, w) :: rest
    else if a = k then (a, v) :: rest
    else (k, w) :: Chain.insert rest a v

/-- The register write `addr <- data` of device `d` (R25). -/
def Chain.write (c : Chain) (d : Nat) (addr data : Byte) : Chain := c.insert (chainKey d addr) data

/-- What register `addr` of device `d` was last written with (R25). -/
def Chain.written? (c : Chain) (d : Nat) (addr : Byte) : Option Byte := c.find? (chainKey d addr)

/-- Keys strictly rising from `lo` on. -/
def Chain.wfFrom : Nat → Chain → Bool
  | _, [] => true
  | lo, (k, _) :: rest => decide (lo ≤ k) && Chain.wfFrom (k + 1) rest

/-- The canonical form of the chain's registers. -/
def Chain.wf (c : Chain) : Bool := Chain.wfFrom 0 c

/-- Every written register belongs to one of the first `n` devices. -/
def Chain.below (n : Nat) : Chain → Bool
  | [] => true
  | (k, _) :: rest => decide (k < 256 * n) && Chain.below n rest

end Sys2Proof.Machine
end

