-- ==== Sys2Proof/Machine/State.lean ====
section
/-! DEFINITION. The state of LMS-CORE (10_state.md R10 to R36) as plain data, its reset (R35, R240), and
the reasons a step can stop. -/

namespace Sys2Proof.Machine

/-- The events of the output trace (R29). -/
inductive Event where
  /-- Chip-select driven low: a packet opens. -/
  | csLow
  /-- A byte handed to the transport. -/
  | tx (b : Byte)
  /-- Chip-select driven high: the packet closes and is committed. -/
  | csHigh
  /-- The core blocks for `t` milliseconds. -/
  | delay (t : BitVec 16)
  /-- The core asks for the glyph of a character code in a font mode. -/
  | glyph (code : Byte) (font : Font)
  deriving DecidableEq, Repr

/-- The response record of the response port (R31). -/
structure Response where
  configured : Bool
  cfgErr : Bool
  ok : Bool
  value : BitVec 32
  deriving DecidableEq, Repr

/-- The serial line.  `packet` holds chip-select and the packet buffer together: some bytes, in order of
transmission, while chip-select is low and a packet is open, and none while it is high (R23), where the
packet buffer does not exist (R10, R21).  `chain` is the chain's written registers (R24, R25). -/
structure Line where
  packet : Option (List Byte)
  chain : Chain
  deriving DecidableEq, Repr

/-- ST.cs (R23): true is high (inactive), false is low (a packet is open). -/
def Line.cs (l : Line) : Bool := l.packet.isNone

/-- The state of the machine; INVENTORY.md lists the rule behind each field. -/
structure State where
  /-- The implementation parameters (R5), constants (log 1). -/
  params : Params
  /-- ST.configured (R16). -/
  configured : Bool
  /-- ST.cfg_err (R16). -/
  cfgErr : Bool
  /-- ST.R (R14). -/
  rows : Nat
  /-- ST.C (R14). -/
  cols : Nat
  /-- ST.FB (R15). -/
  fb : Memory
  /-- ST.font (R17). -/
  font : Font
  /-- ST.scrollDelay (R18). -/
  scrollDelay : BitVec 16
  /-- ST.intensity (R19). -/
  intensity : Fin 16
  /-- ST.shutdown (R20). -/
  shutdown : Bool
  /-- ST.cs (R23), the packet buffer (R21), the chain (R24, R25). -/
  line : Line
  /-- The trace T (R29). -/
  trace : List Event
  /-- The last response presented (R31), none before the first command (log 9). -/
  response : Option Response
  /-- The transfers the host has placed and the machine has not taken, in call order (R30, log 5). -/
  port : List Transfer
  /-- The model's own counter of free values drawn (log 3, log 8). -/
  freeCount : Nat
  deriving DecidableEq, Repr

/-- The reasons a step stops with a fault: none.  "The core never traps" (R210); its one reported
condition, CfgError, is recorded in the state and the machine goes on (R211, log 13). -/
inductive Fault
  deriving DecidableEq, Repr

/-- The reasons a step is refused. -/
inductive Refusal where
  /-- Raised by exec alone, for an instruction without a meaning.  No arm raises it (safe). -/
  | notModelled (mnemonic : String)
  deriving DecidableEq, Repr

/-- What a step answers. -/
abbrev Outcome := Host.Outcome State Fault Refusal

namespace State

/-- `deviceCount = R*C` (R14). -/
def deviceCount (s : State) : Nat := s.rows * s.cols

/-- `fbLen = deviceCount*8` (R14). -/
def fbLen (s : State) : Nat := s.deviceCount * 8

/-- `packetBytes = deviceCount*2` (R14, R71). -/
def packetBytes (s : State) : Nat := s.deviceCount * 2

/-- The machine after hardware reset (R35, R240) with given parameters. -/
def resetWith (p : Params) : State where
  params := p
  configured := false
  cfgErr := false
  rows := 0
  cols := 0
  fb := []
  font := .f8x8
  scrollDelay := p.initScrollDelay
  intensity := p.initIntensity
  shutdown := false
  line := { packet := none, chain := [] }
  trace := []
  response := none
  port := []
  freeCount := 0

/-- The machine right after reset (R35, R240); the OPEN parameters are Config's (log 1). -/
def reset : State := resetWith Config.params

end State

end Sys2Proof.Machine
end

