-- ==== Sys2Proof/Machine/Operands.lean ====
section
/-! DEFINITION. Operand assembly (30_encoding.md R64; 00_scope.md R6), the address mapper
(40_addressmapper.md R90, R91), the device and byte numbering of the grid (20_memory.md R41,
42_chain_protocol.md R110), and glyph geometry (45_text.md R175, R176). -/

namespace Sys2Proof.Machine

/-- `sext_16`: coordinates, extents, axes, radius, module-row (R64). -/
def signed (v : Slot) : Int := v.toInt

/-- `zext_16`: counts, codes, byte values, register addresses, intensity, delay, font code (R64). -/
def unsigned (v : Slot) : Nat := v.toNat

/-- A Boolean operand is true iff non-zero (R64). -/
def truth (v : Slot) : Bool := decide (unsigned v ≠ 0)

/-- The low byte of a slot, for an operand already checked to be at most 255. -/
def lowByte (v : Slot) : Byte := v.extractLsb' 0 8

/-- `InRange(x, y)` on an `R × C` grid (R90). -/
def inRange (R C : Nat) (x y : Int) : Bool :=
  decide (0 ≤ x) && decide (x < 8 * (C : Int)) && decide (0 ≤ y) && decide (y < 8 * (R : Int))

/-- The byte index of `Map(x, y)`: the literal formula of R91. -/
def mapIndex (C : Nat) (x y : Int) : Nat := (8 * (x / 8 + y / 8 * ((C : Int) - 1)) + y).toNat

/-- The bit position of `Map(x, y)` (R91). -/
def mapBit (x : Int) : Nat := (x % 8).toNat

/-- `idx(mr, mc, r)`: the byte of pixel-row `r` of the module at module-row `mr`, module-column `mc`
(R15, R41). -/
def moduleIndex (C mr mc r : Nat) : Nat := 8 * (mc + mr * C) + r

/-- `0 <= mr < R`: the operand names a module-row of the grid (R161, R163). -/
def moduleRowOk (R : Nat) (mr : Int) : Bool := decide (0 ≤ mr) && decide (mr < (R : Int))

/-- `cols(f)` (R175). -/
def fontCols : Font → Nat
  | .f8x8 => 8
  | .f5x7 => 5

/-- `rows(f)` (R175). -/
def fontRows : Font → Nat
  | .f8x8 => 8
  | .f5x7 => 7

/-- The bit order of a font's glyph column bytes. -/
def glyphBits (p : Params) : Font → List Nat
  | .f8x8 => p.glyphBits8x8
  | .f5x7 => p.glyphBits5x7

/-- `GLYPH_BIT(f, row)` (R5, R175). -/
def glyphBit (p : Params) (f : Font) (row : Nat) : Nat := ((glyphBits p f)[row]?).getD 0

/-- The columns the glyph table lists for a character, none listed meaning no columns. -/
def glyphColumns : List GlyphEntry → Byte → Font → List Byte
  | [], _, _ => []
  | e :: rest, c, f => if e.code = c ∧ e.font = f then e.columns else glyphColumns rest c f

/-- `GlyphSource(c, f)`: exactly `cols(f)` column bytes, the leftmost first (R33, R176).  A column the
table does not list is 0x00 (log 12). -/
def glyphSource (p : Params) (c : Byte) (f : Font) : List Byte :=
  (List.range (fontCols f)).map fun col => ((glyphColumns p.glyphs c f)[col]?).getD 0

/-- `REG_DIGIT(r) = 8 - r` (R5, R113). -/
def regDigit (r : Nat) : Byte := BitVec.ofNat 8 (8 - r)

end Sys2Proof.Machine
end

