-- ==== Sys2Proof/Machine/Ops.lean ====
section
/-! DEFINITION. The named operations over the state that every meaning is written from: field updates,
events (10_state.md R29, R25), pixels (41_framebuffer.md R100, R101), packets
(42_chain_protocol.md R111 to R114), and the one reported condition (60_exceptions.md R211). -/

namespace Sys2Proof.Machine

/-- One (data, register address) pair of a packet (R70). -/
structure Pair where
  data : Byte
  addr : Byte
  deriving DecidableEq, Repr

/-- A pixel to be written, and whether it is switched on (R100). -/
abbrev Dot := (Int × Int) × Bool

namespace State

/-- Replace the FrameBuffer (R15). -/
def setFb (s : State) (m : Memory) : State := { s with fb := m }

/-- Write ST.font (R17). -/
def setFont (s : State) (f : Font) : State := { s with font := f }

/-- Write ST.scrollDelay (R18). -/
def setScrollDelay (s : State) (t : BitVec 16) : State := { s with scrollDelay := t }

/-- Write ST.intensity (R19). -/
def setIntensity (s : State) (v : Fin 16) : State := { s with intensity := v }

/-- Write ST.shutdown (R20). -/
def setShutdown (s : State) (b : Bool) : State := { s with shutdown := b }

/-- Write ST.cfg_err (R16). -/
def setCfgErr (s : State) (b : Bool) : State := { s with cfgErr := b }

/-- Fix the grid and enter CONFIGURED (R14, R16). -/
def setGrid (s : State) (rows cols : Nat) : State :=
  { s with rows := rows, cols := cols, configured := true }

/-- Present a response record (R31). -/
def setResponse (s : State) (r : Response) : State := { s with response := some r }

/-- The port without the transfer just taken (R30). -/
def setPort (s : State) (p : List Transfer) : State := { s with port := p }

/-- Count one more free value as drawn (log 3, log 8). -/
def drawFree (s : State) : State := { s with freeCount := s.freeCount + 1 }

/-- What register `addr` of chain device `d` holds: what was last written, else what it held at
power-on (R25, U9; log 4). -/
def chipReg (s : State) (d : Nat) (addr : Byte) : Byte :=
  (s.line.chain.written? d addr).getD (Config.chipPowerOn d addr)

end State

/-- The register writes of a closed packet, all devices together (R25, R119).  `bytes` is the packet from
its last byte to its first, so it opens with the pair of device `d`, the nearest not yet served:
the address byte, then the data byte (R111). -/
def latch : Chain → Nat → List Byte → Chain
  | c, d, addr :: data :: rest => latch (c.write d addr data) (d + 1) rest
  | c, _, _ => c

/-- What an event does to the serial line (R29, R25). -/
def lineStep (l : Line) : Event → Line
  | .csLow => { l with packet := some [] }
  | .tx b => { l with packet := l.packet.map (· ++ [b]) }
  | .csHigh => { packet := none, chain := latch l.chain 0 (l.packet.getD []).reverse }
  | .delay _ => l
  | .glyph _ _ => l

/-- `emit` a list of events in order: each is appended to the trace and acts on the line (R7, R29). -/
def emit (s : State) (es : List Event) : State :=
  { s with trace := s.trace ++ es, line := es.foldl lineStep s.line }

/-- `GetPixel` on a FrameBuffer (R101). -/
def pixel (R C : Nat) (fb : Memory) (x y : Int) : Bool :=
  if inRange R C x y then bit (fb.read (mapIndex C x y)) (mapBit x) else false

/-- `SetPixel` on a FrameBuffer (R100). -/
def setPixel (R C : Nat) (fb : Memory) (d : Dot) : Memory :=
  if inRange R C d.1.1 d.1.2 then
    fb.write (mapIndex C d.1.1 d.1.2)
      (withBit (fb.read (mapIndex C d.1.1 d.1.2)) (mapBit d.1.1) d.2)
  else fb

/-- `SetPixel` for each of a list of dots in order (R100). -/
def paint (s : State) (dots : List Dot) : State :=
  s.setFb (dots.foldl (setPixel s.rows s.cols) s.fb)

/-- Pixels switched on: what every shape does (R139). -/
def plot (s : State) (points : List (Int × Int)) : State := paint s (points.map fun p => (p, true))

/-- `for i in 0..fbLen-1: FB[i] <- 0x00` (R104): no byte differs from 0x00 (log 10). -/
def clearFb (s : State) : State := s.setFb []

/-- The TX events of the pairs of devices `n-1` down to `0`, data byte first (R111). -/
def pairEvents (pair : Nat → Pair) : Nat → List Event
  | 0 => []
  | d + 1 => .tx (pair d).data :: .tx (pair d).addr :: pairEvents pair d

/-- The events of a packet for `n` devices (R111, R71). -/
def packetEvents (n : Nat) (pair : Nat → Pair) : List Event :=
  .csLow :: (pairEvents pair n ++ [.csHigh])

/-- `SendPacket(pair)` (R111). -/
def sendPacket (s : State) (pair : Nat → Pair) : State := emit s (packetEvents s.deviceCount pair)

/-- `Broadcast(addr, val)` (R112). -/
def broadcast (s : State) (addr val : Byte) : State := sendPacket s fun _ => ⟨val, addr⟩

/-- The pair of device `d` in the packet of pixel-row `r` (R113). -/
def rowPair (fb : Memory) (r d : Nat) : Pair := ⟨fb.read (8 * d + r), regDigit r⟩

/-- `RefreshRow(r)` (R113). -/
def sendRow (s : State) (r : Nat) : State := sendPacket s (rowPair s.fb r)

/-- `Refresh()` (R114). -/
def refreshAll (s : State) : State := (List.range 8).foldl sendRow s

/-- A register write of R72 run on its own: one whole packet in which every device gets this pair, as
`Broadcast` sends it (R112, R71; log 7).  Before construction there is no chain and nothing happens
(R66, R242). -/
def sendPair (s : State) (p : Pair) : State :=
  if s.configured then broadcast s p.addr p.data else s

end Sys2Proof.Machine
end

