-- ==== Sys2Proof/Machine/Flags.lean ====
section
/-! DEFINITION. The status flags and the response record: R16, R31; the one reported condition, taken by
one shared operation (60_exceptions.md R210, R211); and the life-cycle gate of 30_encoding.md R66. -/

namespace Sys2Proof.Machine

/-- The response at the end of a command that did not fail, with the value of a query (R31). -/
def respondValue (s : State) (value : BitVec 32) : State :=
  s.setResponse ⟨s.configured, s.cfgErr, true, value⟩

/-- The response at the end of a command that did not fail and is no query (R31). -/
def respond (s : State) : State := respondValue s 0

/-- `raise CfgError`: `ST.cfg_err <- 1`, response `ok = 0`, nothing else changes (R7, R211).  There is
nothing to return from: the next command runs as usual (R210, R213). -/
def raiseCfgError (s : State) : State :=
  let s := s.setCfgErr true
  s.setResponse ⟨s.configured, s.cfgErr, false, 0⟩

/-- The validation of CONSTRUCT fails (R190). -/
def gridRejected (maxDevices rows cols : Nat) : Bool :=
  decide (rows < 1) || decide (cols < 1) || decide (rows * cols > maxDevices)

/-- A command other than CONSTRUCT that is no query: ignored while UNCONFIGURED (R66 (2)), else it has
its effect; then the response (R31). -/
def command (s : State) (effect : State → State) : Outcome :=
  .next (respond (if s.configured then effect s else s))

/-- A query: while CONFIGURED it answers a value (R31).  While UNCONFIGURED it is ignored (R66 (2)) with
`ok = 1`; the spec states no response value for that case, so it is a fresh free value (DESIGN CHOICE,
log 8). -/
def query (s : State) (answer : State → State × BitVec 32) : Outcome :=
  if s.configured then .next (respondValue (answer s).1 (answer s).2)
  else .next (respondValue s.drawFree (Config.freeQueryValue s.freeCount))

end Sys2Proof.Machine
end

