-- ==== Sys2Proof/Machine/ChainDriver.lean ====
section
/-! DEFINITION. The ChainProtocolDriver's commands: BCAST, REFRESHROW, REFRESH, CLRREFRESH
(42_chain_protocol.md R115 to R118). -/

namespace Sys2Proof.Machine

/-- BCAST addr, val (R115). -/
def execBcast (addr val : Slot) (s : State) : Outcome :=
  command s fun s =>
    if unsigned addr > 255 ∨ unsigned val > 255 then s
    else broadcast s (lowByte addr) (lowByte val)

/-- REFRESHROW row (R116). -/
def execRefreshRow (row : Slot) (s : State) : Outcome :=
  command s fun s => if unsigned row > 7 then s else sendRow s (unsigned row)

/-- REFRESH (R117). -/
def execRefresh (s : State) : Outcome := command s refreshAll

/-- CLRREFRESH (R118). -/
def execClrRefresh (s : State) : Outcome := command s fun s => refreshAll (clearFb s)

end Sys2Proof.Machine
end

