-- ==== Sys2Proof/Machine/Configure.lean ====
section
/-! DEFINITION. Construction and configuration: CONSTRUCT, SETINTENSITY, SETSHUTDOWN, SETFONT,
SETSCROLLDELAY (46_config.md R190 to R194). -/

namespace Sys2Proof.Machine

/-- Bring-up steps 1 to 7 of R190: five broadcasts with the state updates between them, clear, refresh. -/
def bringUp (s : State) : State :=
  let s := broadcast s s.params.chip.regDisplayTest s.params.chip.valTestOff
  let s := broadcast s s.params.chip.regScanLimit s.params.chip.valScanAll
  let s := broadcast s s.params.chip.regDecode s.params.chip.valDecodeNone
  let s := broadcast s s.params.chip.regIntensity (BitVec.ofNat 8 s.params.initIntensity.val)
  let s := s.setIntensity s.params.initIntensity
  let s := broadcast s s.params.chip.regShutdown s.params.chip.valShutdownOff
  let s := s.setShutdown false
  refreshAll (clearFb s)

/-- The state updates of R190 before bring-up. -/
def configure (s : State) (rows cols : Nat) : State :=
  (((s.setGrid rows cols).setCfgErr false).setFont .f8x8).setScrollDelay s.params.initScrollDelay

/-- CONSTRUCT rows, cols (R190); ignored while CONFIGURED (R66 (3)). -/
def execConstruct (rows cols : Slot) (s : State) : Outcome :=
  .next (
    if s.configured then respond s
    else if gridRejected s.params.maxDevices (unsigned rows) (unsigned cols) then raiseCfgError s
    else respond (bringUp (configure s (unsigned rows) (unsigned cols))))

/-- SETINTENSITY v (R191). -/
def execSetIntensity (v : Slot) (s : State) : Outcome :=
  command s fun s =>
    if h : unsigned v < 16 then
      broadcast (s.setIntensity ⟨unsigned v, h⟩) s.params.chip.regIntensity (lowByte v)
    else s

/-- SETSHUTDOWN b (R192). -/
def execSetShutdown (b : Slot) (s : State) : Outcome :=
  command s fun s =>
    broadcast (s.setShutdown (truth b)) s.params.chip.regShutdown
      (if truth b then s.params.chip.valShutdownOn else s.params.chip.valShutdownOff)

/-- SETFONT f (R193). -/
def execSetFont (f : Slot) (s : State) : Outcome :=
  command s fun s =>
    if unsigned f = 0 then s.setFont .f5x7
    else if unsigned f = 1 then s.setFont .f8x8
    else s

/-- SETSCROLLDELAY t (R194). -/
def execSetScrollDelay (t : Slot) (s : State) : Outcome :=
  command s fun s => s.setScrollDelay t

end Sys2Proof.Machine
end

