-- ==== Sys2Proof/Machine/FrameBuffer.lean ====
section
/-! DEFINITION. The mapper query and the FrameBuffer commands: MAPADDR (40_addressmapper.md R92), SETLED,
GETLED, CLEARBUF (41_framebuffer.md R102 to R104). -/

namespace Sys2Proof.Machine

/-- The valid MAPADDR response: bit 31 set, bits 30:3 the byte index, bits 2:0 the bit position (R92). -/
def mapValue (C : Nat) (x y : Int) : BitVec 32 :=
  1#1 ++ (BitVec.ofNat 28 (mapIndex C x y) ++ BitVec.ofNat 3 (mapBit x))

/-- MAPADDR x, y (R92).  Out of range only bit 31 = 0 is defined: the other bits are a fresh free value
(U7, log 3). -/
def execMapAddr (x y : Slot) (s : State) : Outcome :=
  query s fun s =>
    if inRange s.rows s.cols (signed x) (signed y) then (s, mapValue s.cols (signed x) (signed y))
    else (s.drawFree, 0#1 ++ Config.freeMapBits s.freeCount)

/-- SETLED x, y, on (R102). -/
def execSetLed (x y on : Slot) (s : State) : Outcome :=
  command s fun s => paint s [((signed x, signed y), truth on)]

/-- GETLED x, y (R103). -/
def execGetLed (x y : Slot) (s : State) : Outcome :=
  query s fun s => (s, if pixel s.rows s.cols s.fb (signed x) (signed y) then 1 else 0)

/-- CLEARBUF (R104). -/
def execClearBuf (s : State) : Outcome := command s clearFb

end Sys2Proof.Machine
end

