-- ==== Sys2Proof/Machine/Scroll.lean ====
section
/-! DEFINITION. The ScrollEngine: ShiftRow, Inject and the commands SHIFTROW, SCROLLGLYPH, SCROLLCHAR
(44_scroll.md R160 to R165). -/

namespace Sys2Proof.Machine

/-- The body of R160's loop for pixel-row `r` of module-column `mc`: the carry into the left neighbour,
then the logical shift. -/
def shiftByte (C mr mc : Nat) (fb : Memory) (r : Nat) : Memory :=
  let i := moduleIndex C mr mc r
  let carried :=
    if bit (fb.read i) 0 = true ∧ mc ≥ 1 then fb.write (i - 8) (fb.read (i - 8) ||| 0x80) else fb
  carried.write i (shiftRight1 (carried.read i))

/-- The shift of all bytes of module-row `mr`, leftmost module first (R160). -/
def shiftRowFb (C mr : Nat) (fb : Memory) : Memory :=
  (List.range C).foldl (fun fb mc => (List.range 8).foldl (shiftByte C mr mc) fb) fb

/-- `ShiftRow(mr)` (R160). -/
def shiftModuleRow (s : State) (mr : Nat) : State :=
  emit (s.setFb (shiftRowFb s.cols mr s.fb)) [.delay s.scrollDelay]

/-- The body of R162's loop for glyph row `r`. -/
def injectBit (p : Params) (C mr : Nat) (g : Byte) (f : Font) (fb : Memory) (r : Nat) : Memory :=
  let i := moduleIndex C mr (C - 1) r
  if bit g (glyphBit p f r) = true then fb.write i (fb.read i ||| 0x80) else fb

/-- `Inject(mr, g, f)` (R162). -/
def inject (s : State) (mr : Nat) (g : Byte) (f : Font) : State :=
  s.setFb ((List.range (fontRows f)).foldl (injectBit s.params s.cols mr g f) s.fb)

/-- One column step of ScrollGlyph: shift, delay, inject, refresh (R163). -/
def columnStep (mr : Nat) (f : Font) (s : State) (g : Byte) : State :=
  refreshAll (inject (shiftModuleRow s mr) mr g f)

/-- The columns stepped through: the 5×7 font appends a blank one (R163). -/
def scrolledColumns (f : Font) (columns : List Byte) : List Byte :=
  match f with
  | .f5x7 => columns ++ [0x00]
  | .f8x8 => columns

/-- `ScrollGlyph(mr, columns)` (R163). -/
def scrollColumns (s : State) (mr : Int) (columns : List Byte) : State :=
  if moduleRowOk s.rows mr then
    (scrolledColumns s.font columns).foldl (columnStep mr.toNat s.font) s
  else s

/-- SHIFTROW mr (R161). -/
def execShiftRow (mr : Slot) (s : State) : Outcome :=
  command s fun s =>
    if moduleRowOk s.rows (signed mr) then shiftModuleRow s (signed mr).toNat else s

/-- SCROLLGLYPH mr, n; payload (R163); ignored when the payload length differs from n (R63). -/
def execScrollGlyph (mr n : Slot) (payload : List Byte) (s : State) : Outcome :=
  command s fun s =>
    if payload.length = unsigned n then scrollColumns s (signed mr) payload else s

/-- SCROLLCHAR c, mr (R164). -/
def execScrollChar (c mr : Slot) (s : State) : Outcome :=
  command s fun s =>
    if unsigned c > 255 then s
    else if moduleRowOk s.rows (signed mr) then
      scrollColumns (emit s [.glyph (lowByte c) s.font]) (signed mr)
        (glyphSource s.params (lowByte c) s.font)
    else s

end Sys2Proof.Machine
end

