-- ==== Sys2Proof/Machine/Shapes.lean ====
section
/-! DEFINITION. The ShapeRasterizer (43_shapes.md R130 to R141): each shape is the list of the pixels its
rule writes, in the rule's order (R139 (b)); all arithmetic is over the integers (R8). -/

namespace Sys2Proof.Machine

/-- The integers `lo..hi`, inclusive, ascending, empty when `hi < lo` (R6). -/
def span (lo hi : Int) : List Int := (List.range (hi - lo + 1).toNat).map fun i => lo + (i : Int)

/-- The general case of `Line`: the loop of R131 with accumulator `err`, plotting until the end point.
The number bounds the pixels written; `max(dx, dy) + 1` of them reach the end point (R137 (a), log 15). -/
def lineWalk (dx dy sx sy x2 y2 : Int) : Nat → Int → Int → Int → List (Int × Int)
  | 0, _, _, _ => []
  | n + 1, x, y, err =>
    (x, y) ::
      if x = x2 ∧ y = y2 then []
      else
        let e2 := 2 * err
        let xStep := decide (e2 > -dy)
        let yStep := decide (e2 < dx)
        lineWalk dx dy sx sy x2 y2 n
          (if xStep then x + sx else x)
          (if yStep then y + sy else y)
          ((if xStep then err - dy else err) + (if yStep then dx else 0))

/-- The pixels of `Line(x1, y1, x2, y2)` on an `R × C` grid (R131). -/
def linePixels (R C : Nat) (x1 y1 x2 y2 : Int) : List (Int × Int) :=
  if !inRange R C x1 y1 || !inRange R C x2 y2 then []
  else if y1 = y2 then (span (min x1 x2) (max x1 x2)).map fun x => (x, y1)
  else
    let dx := |x2 - x1|
    let dy := |y2 - y1|
    lineWalk dx dy (if x1 < x2 then 1 else -1) (if y1 < y2 then 1 else -1) x2 y2
      ((max dx dy).toNat + 1) x1 y1 (dx - dy)

/-- The pixels of the three edges of DRAWTRI (R132). -/
def triPixels (R C : Nat) (x1 y1 x2 y2 x3 y3 : Int) : List (Int × Int) :=
  if !inRange R C x3 y3 then []
  else
    linePixels R C x1 y1 x2 y2 ++ linePixels R C x2 y2 x3 y3 ++ linePixels R C x3 y3 x1 y1

/-- The pixels of the four edges of DRAWQUAD (R133). -/
def quadPixels (R C : Nat) (x1 y1 x2 y2 x3 y3 x4 y4 : Int) : List (Int × Int) :=
  if !inRange R C x4 y4 then []
  else
    linePixels R C x1 y1 x2 y2 ++ linePixels R C x2 y2 x3 y3 ++
      linePixels R C x3 y3 x4 y4 ++ linePixels R C x4 y4 x1 y1

/-- The pixels of the four border lines of DRAWRECT: top, bottom, left, right (R134). -/
def rectPixels (x y w h : Int) : List (Int × Int) :=
  if w < 1 ∨ h < 1 then []
  else
    ((span 0 (w - 1)).map fun i => (x + i, y)) ++
    ((span 0 (w - 1)).map fun i => (x + i, y + h - 1)) ++
    ((span 0 (h - 1)).map fun j => (x, y + j)) ++
    ((span 0 (h - 1)).map fun j => (x + w - 1, y + j))

/-- The largest `n` of `0..bound` with `n = 0` or `(2n-1)^2 * q <= N` (R136). -/
def rootBelow (q N : Int) : Nat → Int
  | 0 => 0
  | n + 1 => if (2 * ((n : Int) + 1) - 1) ^ 2 * q ≤ N then (n : Int) + 1 else rootBelow q N n

/-- The rounded offset of R136 at distance `delta` from the centre, on the axis `along`, of the roots on the
axis `across`: the `n` of pass 1 for `a, b, dx` and the `m` of pass 2 for `b, a, dy`. -/
def ellipseOffset (along across delta : Int) : Int :=
  rootBelow (along ^ 2) (across ^ 2 * (along ^ 2 - 4 * delta ^ 2)) ((across + 1) / 2).toNat

/-- The pixels of `Ellipse(h, k, a, b)`: pass 1, then pass 2 (R136). -/
def ellipsePixels (h k a b : Int) : List (Int × Int) :=
  if a < 1 ∨ b < 1 then []
  else
    ((span (h - a / 2) (h + a / 2)).flatMap fun x =>
      [(x, k + ellipseOffset a b (x - h)), (x, k - ellipseOffset a b (x - h))]) ++
    ((span (k - b / 2) (k + b / 2)).flatMap fun y =>
      [(h + ellipseOffset b a (y - k), y), (h - ellipseOffset b a (y - k), y)])

/-- POINT x, y (R130). -/
def execPoint (x y : Slot) (s : State) : Outcome :=
  command s fun s => plot s [(signed x, signed y)]

/-- DRAWLINE x1, y1, x2, y2 (R131). -/
def execDrawLine (x1 y1 x2 y2 : Slot) (s : State) : Outcome :=
  command s fun s =>
    plot s (linePixels s.rows s.cols (signed x1) (signed y1) (signed x2) (signed y2))

/-- DRAWTRI x1, y1, x2, y2, x3, y3 (R132). -/
def execDrawTri (x1 y1 x2 y2 x3 y3 : Slot) (s : State) : Outcome :=
  command s fun s =>
    plot s (triPixels s.rows s.cols (signed x1) (signed y1) (signed x2) (signed y2)
      (signed x3) (signed y3))

/-- DRAWQUAD x1, y1, x2, y2, x3, y3, x4, y4 (R133). -/
def execDrawQuad (x1 y1 x2 y2 x3 y3 x4 y4 : Slot) (s : State) : Outcome :=
  command s fun s =>
    plot s (quadPixels s.rows s.cols (signed x1) (signed y1) (signed x2) (signed y2)
      (signed x3) (signed y3) (signed x4) (signed y4))

/-- DRAWRECT x, y, w, h (R134). -/
def execDrawRect (x y w h : Slot) (s : State) : Outcome :=
  command s fun s => plot s (rectPixels (signed x) (signed y) (signed w) (signed h))

/-- DRAWCIRCLE h, k, r: `Ellipse(h, k, 2r, 2r)` (R135). -/
def execDrawCircle (h k r : Slot) (s : State) : Outcome :=
  command s fun s =>
    plot s (ellipsePixels (signed h) (signed k) (2 * signed r) (2 * signed r))

/-- DRAWELLIPSE h, k, a, b (R136). -/
def execDrawEllipse (h k a b : Slot) (s : State) : Outcome :=
  command s fun s => plot s (ellipsePixels (signed h) (signed k) (signed a) (signed b))

end Sys2Proof.Machine
end

