-- ==== Sys2Proof/Machine/Text.lean ====
section
/-! DEFINITION. The TextEngine's placement commands DRAWCHAR and DRAWWORD (45_text.md R175 to R178). -/

namespace Sys2Proof.Machine

/-- The dots of a glyph whose bounding box has its top-left pixel at `(x, y)`: every column and row of the
box, on where the glyph bit is 1 and off where it is 0 (R177, D28). -/
def glyphDots (p : Params) (f : Font) (glyph : List Byte) (x y : Int) : List Dot :=
  (List.range (fontCols f)).flatMap fun (col : Nat) =>
    (List.range (fontRows f)).map fun (row : Nat) =>
      ((x + (col : Int), y + (row : Int)), bit ((glyph[col]?).getD 0) (glyphBit p f row))

/-- `PlaceChar(c, x, y)` for a code `c` that is a byte (R177). -/
def placeChar (s : State) (c : Byte) (x y : Int) : State :=
  paint (emit s [.glyph c s.font]) (glyphDots s.params s.font (glyphSource s.params c s.font) x y)

/-- `PlaceChar` for each code in turn, each `cols(ST.font)` pixels right of the one before (R178). -/
def placeChars : State → List Byte → Int → Int → State
  | s, [], _, _ => s
  | s, c :: rest, x, y => placeChars (placeChar s c x y) rest (x + (fontCols s.font : Int)) y

/-- DRAWCHAR c, x, y (R177). -/
def execDrawChar (c x y : Slot) (s : State) : Outcome :=
  command s fun s =>
    if unsigned c > 255 then s else placeChar s (lowByte c) (signed x) (signed y)

/-- DRAWWORD count, x, y; payload (R178); ignored when the payload length differs from count (R63). -/
def execDrawWord (count x y : Slot) (payload : List Byte) (s : State) : Outcome :=
  command s fun s =>
    if payload.length = unsigned count then placeChars s payload (signed x) (signed y) else s

end Sys2Proof.Machine
end

