-- ==== Sys2Proof/Machine/Wire.lean ====
section
/-! DEFINITION. The wire pairs: the register writes the core can generate, each run as
one packet that writes the register in every device (30_encoding.md R70 to R72, 42_chain_protocol.md R112,
R119; log 7). -/

namespace Sys2Proof.Machine

/-- W.DIGIT0: data `d` to register address 0x08, the digit register of pixel-row 0 (R72, R113). -/
def execWDigit0 (d : Byte) (s : State) : Outcome := .next (sendPair s ⟨d, 0x08⟩)

/-- W.DIGIT1: data `d` to register address 0x07, the digit register of pixel-row 1 (R72, R113). -/
def execWDigit1 (d : Byte) (s : State) : Outcome := .next (sendPair s ⟨d, 0x07⟩)

/-- W.DIGIT2: data `d` to register address 0x06, the digit register of pixel-row 2 (R72, R113). -/
def execWDigit2 (d : Byte) (s : State) : Outcome := .next (sendPair s ⟨d, 0x06⟩)

/-- W.DIGIT3: data `d` to register address 0x05, the digit register of pixel-row 3 (R72, R113). -/
def execWDigit3 (d : Byte) (s : State) : Outcome := .next (sendPair s ⟨d, 0x05⟩)

/-- W.DIGIT4: data `d` to register address 0x04, the digit register of pixel-row 4 (R72, R113). -/
def execWDigit4 (d : Byte) (s : State) : Outcome := .next (sendPair s ⟨d, 0x04⟩)

/-- W.DIGIT5: data `d` to register address 0x03, the digit register of pixel-row 5 (R72, R113). -/
def execWDigit5 (d : Byte) (s : State) : Outcome := .next (sendPair s ⟨d, 0x03⟩)

/-- W.DIGIT6: data `d` to register address 0x02, the digit register of pixel-row 6 (R72, R113). -/
def execWDigit6 (d : Byte) (s : State) : Outcome := .next (sendPair s ⟨d, 0x02⟩)

/-- W.DIGIT7: data `d` to register address 0x01, the digit register of pixel-row 7 (R72, R113). -/
def execWDigit7 (d : Byte) (s : State) : Outcome := .next (sendPair s ⟨d, 0x01⟩)

/-- W.DECODE: 0x00 to the decode-mode register 0x09 (R72, R190). -/
def execWDecode (s : State) : Outcome := .next (sendPair s ⟨0x00, 0x09⟩)

/-- W.INTENSITY: `v` to the intensity register 0x0A (R72, R191). -/
def execWIntensity (v : BitVec 4) (s : State) : Outcome := .next (sendPair s ⟨v.setWidth 8, 0x0A⟩)

/-- W.SCANLIMIT: 0x07 to the scan-limit register 0x0B (R72, R190). -/
def execWScanLimit (s : State) : Outcome := .next (sendPair s ⟨0x07, 0x0B⟩)

/-- W.SHUTDOWN: 0x01 (wake) or 0x00 (shut down) to the shutdown register 0x0C (R72, R192). -/
def execWShutdown (n : Bool) (s : State) : Outcome :=
  .next (sendPair s ⟨if n then 0x01 else 0x00, 0x0C⟩)

/-- W.DISPLAYTEST: 0x00 to the display-test register 0x0F (R72, R190). -/
def execWDisplayTest (s : State) : Outcome := .next (sendPair s ⟨0x00, 0x0F⟩)

end Sys2Proof.Machine
end

