-- ==== Sys2Proof/Machine/Dispatch.lean ====
section
/-! DEFINITION. One arm per constructor of Instr. -/

namespace Sys2Proof.Machine

def exec (i : Instr) (s : State) : Host.Outcome State Fault Refusal :=
  match i with
  | .construct rows cols => Sys2Proof.Machine.execConstruct rows cols s
  | .setIntensity v => Sys2Proof.Machine.execSetIntensity v s
  | .setShutdown b => Sys2Proof.Machine.execSetShutdown b s
  | .setFont f => Sys2Proof.Machine.execSetFont f s
  | .setScrollDelay t => Sys2Proof.Machine.execSetScrollDelay t s
  | .mapAddr x y => Sys2Proof.Machine.execMapAddr x y s
  | .setLed x y on => Sys2Proof.Machine.execSetLed x y on s
  | .getLed x y => Sys2Proof.Machine.execGetLed x y s
  | .clearBuf => Sys2Proof.Machine.execClearBuf s
  | .bcast addr val => Sys2Proof.Machine.execBcast addr val s
  | .refreshRow row => Sys2Proof.Machine.execRefreshRow row s
  | .refresh => Sys2Proof.Machine.execRefresh s
  | .clrRefresh => Sys2Proof.Machine.execClrRefresh s
  | .point x y => Sys2Proof.Machine.execPoint x y s
  | .drawLine x1 y1 x2 y2 => Sys2Proof.Machine.execDrawLine x1 y1 x2 y2 s
  | .drawTri x1 y1 x2 y2 x3 y3 => Sys2Proof.Machine.execDrawTri x1 y1 x2 y2 x3 y3 s
  | .drawQuad x1 y1 x2 y2 x3 y3 x4 y4 => Sys2Proof.Machine.execDrawQuad x1 y1 x2 y2 x3 y3 x4 y4 s
  | .drawRect x y w h => Sys2Proof.Machine.execDrawRect x y w h s
  | .drawCircle h k r => Sys2Proof.Machine.execDrawCircle h k r s
  | .drawEllipse h k a b => Sys2Proof.Machine.execDrawEllipse h k a b s
  | .shiftRow mr => Sys2Proof.Machine.execShiftRow mr s
  | .scrollGlyph mr n payload => Sys2Proof.Machine.execScrollGlyph mr n payload s
  | .scrollChar c mr => Sys2Proof.Machine.execScrollChar c mr s
  | .drawChar c x y => Sys2Proof.Machine.execDrawChar c x y s
  | .drawWord count x y payload => Sys2Proof.Machine.execDrawWord count x y payload s
  | .wDigit0 d => Sys2Proof.Machine.execWDigit0 d s
  | .wDigit1 d => Sys2Proof.Machine.execWDigit1 d s
  | .wDigit2 d => Sys2Proof.Machine.execWDigit2 d s
  | .wDigit3 d => Sys2Proof.Machine.execWDigit3 d s
  | .wDigit4 d => Sys2Proof.Machine.execWDigit4 d s
  | .wDigit5 d => Sys2Proof.Machine.execWDigit5 d s
  | .wDigit6 d => Sys2Proof.Machine.execWDigit6 d s
  | .wDigit7 d => Sys2Proof.Machine.execWDigit7 d s
  | .wDecode => Sys2Proof.Machine.execWDecode s
  | .wIntensity v => Sys2Proof.Machine.execWIntensity v s
  | .wScanLimit => Sys2Proof.Machine.execWScanLimit s
  | .wShutdown n => Sys2Proof.Machine.execWShutdown n s
  | .wDisplayTest => Sys2Proof.Machine.execWDisplayTest s

end Sys2Proof.Machine
end

