-- ==== Sys2Proof/Machine/Fetch.lean ====
section
/-! DEFINITION. Taking the next transfer from the port (10_state.md R30, R12; 30_encoding.md R66). -/

namespace Sys2Proof.Machine

/-- What taking the next transfer leads to. -/
inductive Fetched where
  /-- Nothing to run: the state after the step is already known. -/
  | done (s : State)
  /-- An instruction to run, and the state with its transfer taken. -/
  | run (i : Instr) (s : State)

/-- Take the next transfer.  With nothing placed the core waits (R240).  Every command is taken, whatever came
before it: "nothing the host can send makes the core trap, hang" (R66); one that decodes to nothing is
ignored with a response (R66 (1), (4)).  A pair that is none of the rows of R72 is taken and has no effect:
the core never generates such a pair except through BCAST (R72; log 7). -/
def fetch (s : State) : Fetched :=
  match s.port with
  | [] => .done s
  | .command w payload :: rest =>
    match decode (.command w payload) with
    | .ok i => .run i (s.setPort rest)
    | .error _ => .done (respond (s.setPort rest))
  | .pair p :: rest =>
    match decode (.pair p) with
    | .ok i => .run i (s.setPort rest)
    | .error _ => .done (s.setPort rest)

/-- A state whose next step takes the transfer `t`: it stands first in the port (log 5, log 14). -/
def placeTransfer (s : State) (t : Transfer) : State := s.setPort (t :: s.port)

end Sys2Proof.Machine
end

