-- ==== Sys2Proof/Machine/Step.lean ====
section
/-! DEFINITION. One step: take the next transfer and run what it decodes to (10_state.md R12, R30). -/

namespace Sys2Proof.Machine

/-- One step of the machine. -/
def step (s : State) : Host.Outcome State Fault Refusal :=
  match fetch s with
  | .done t => .next t
  | .run i t => exec i t

/-- The state whose next step runs the opcode-table word `w` of `nbits` bits (log 14). -/
def State.withFetchWord (s : State) (nbits w : Nat) : State :=
  match tableTransfer nbits w with
  | some t => placeTransfer s t
  | none => s

end Sys2Proof.Machine
end

