-- ==== Sys2Proof/Safety.lean ====
section
/-! DEFINITION. What counts as a safe state: the invariants the spec gives the machine (10_state.md R14, R23,
R25, R29; 20_memory.md R44), in the terms the statements use. -/

namespace Sys2Proof.Machine

/-- Where a trace stands in the framing of R29: between packets, or in a packet with so many bytes sent. -/
inductive Framing where
  | idle
  | inside (sent : Nat)
  | broken
  deriving DecidableEq, Repr

/-- One event of a trace against the framing of R29: a packet is `CS_LOW`, then exactly `packetBytes` TX
events, then `CS_HIGH`; delay and glyph events do not concern it. -/
def Framing.next (packetBytes : Nat) (f : Framing) : Event → Framing
  | .delay _ => f
  | .glyph _ _ => f
  | .csLow =>
    match f with
    | .idle => .inside 0
    | _ => .broken
  | .tx _ =>
    match f with
    | .inside k => if k < packetBytes then .inside (k + 1) else .broken
    | _ => .broken
  | .csHigh =>
    match f with
    | .inside k => if k = packetBytes then .idle else .broken
    | _ => .broken

/-- The framing after a whole trace. -/
def framing (packetBytes : Nat) (t : List Event) : Framing :=
  t.foldl (Framing.next packetBytes) .idle

/-- The line before any event: chip-select high, no packet, no register written (R35). -/
def Line.initial : Line := { packet := none, chain := [] }

/-- The line a trace leads to: the chip-select level, the open packet and the chain's registers are
functions of the events emitted (R23, R25, R29). -/
def replay (t : List Event) : Line := t.foldl lineStep Line.initial

/-- The invariant of the machine. -/
structure Inv (s : State) : Prop where
  /-- The FrameBuffer is in canonical form. -/
  fbCanonical : s.fb.wf = true
  /-- No byte at or above `fbLen` is listed (R44). -/
  fbInGrid : s.fb.below s.fbLen = true
  /-- The chain's registers are in canonical form. -/
  chainCanonical : s.line.chain.wf = true
  /-- Only devices of the grid hold written registers (R110). -/
  chainInGrid : s.line.chain.below s.deviceCount = true
  /-- The grid while CONFIGURED (R14), with no error pending (R16). -/
  gridConfigured : s.configured = true →
    1 ≤ s.rows ∧ 1 ≤ s.cols ∧ s.deviceCount ≤ s.params.maxDevices ∧ s.cfgErr = false
  /-- The grid while UNCONFIGURED (R14), with nothing emitted (R35). -/
  gridUnconfigured : s.configured = false → s.rows = 0 ∧ s.cols = 0 ∧ s.trace = []
  /-- The line is what the trace leads to (R23, R25). -/
  lineReplays : s.line = replay s.trace
  /-- The trace is a sequence of whole packets (R29). -/
  framed : framing s.packetBytes s.trace = .idle
  /-- Between instructions chip-select is high (R23), so no packet buffer is left over (R21). -/
  chipSelectHigh : s.line.cs = true

/-- The parameters are admissible: `MAX_DEVICES >= 1`, and each font's rows go one-to-one into bits `0..7`
(R5, R175). -/
def Params.wf (p : Params) : Bool :=
  decide (1 ≤ p.maxDevices) &&
  decide (p.glyphBits8x8.length = 8 ∧ p.glyphBits8x8.Nodup ∧ ∀ b ∈ p.glyphBits8x8, b < 8) &&
  decide (p.glyphBits5x7.length = 7 ∧ p.glyphBits5x7.Nodup ∧ ∀ b ∈ p.glyphBits5x7, b < 8)

/-- A run of `k` steps from `s` is safe: it reaches a next state (R210). -/
def SafeRun (k : Nat) (s : State) : Prop := ∃ t, Host.Core.run core k s = .next t

/-- Everything a drawing command may not change: all fields but the FrameBuffer and the response
(R36, R139). -/
structure OnlyFb (s t : State) : Prop where
  params : t.params = s.params
  configured : t.configured = s.configured
  cfgErr : t.cfgErr = s.cfgErr
  rows : t.rows = s.rows
  cols : t.cols = s.cols
  font : t.font = s.font
  scrollDelay : t.scrollDelay = s.scrollDelay
  intensity : t.intensity = s.intensity
  shutdown : t.shutdown = s.shutdown
  line : t.line = s.line
  trace : t.trace = s.trace
  port : t.port = s.port
  freeCount : t.freeCount = s.freeCount

/-- Everything a transmitting or text or scroll command may not change: all fields but the FrameBuffer,
the line, the trace and the response (R36). -/
structure OnlyFbAndTrace (s t : State) : Prop where
  params : t.params = s.params
  configured : t.configured = s.configured
  cfgErr : t.cfgErr = s.cfgErr
  rows : t.rows = s.rows
  cols : t.cols = s.cols
  font : t.font = s.font
  scrollDelay : t.scrollDelay = s.scrollDelay
  intensity : t.intensity = s.intensity
  shutdown : t.shutdown = s.shutdown
  port : t.port = s.port
  freeCount : t.freeCount = s.freeCount

/-- The response a command that did not fail presents, with value 0 (R31). -/
def okResponse (s : State) : Response := ⟨s.configured, s.cfgErr, true, 0⟩

end Sys2Proof.Machine
end

