-- ==== Sys2Proof/Certificates/Slice0/Obligations.lean ====
section
/-! DEFINITION. The statements about LMS-CORE for the provers, each from the numbered rules of spec/. -/

open Sys2Proof Sys2Proof.Machine

namespace Sys2Proof.Claims

/-- The pixel `(x, y)` of a state, off when out of range (R101). -/
def readPixel (s : State) (x y : Int) : Bool := pixel s.rows s.cols s.fb x y

/-- The state after a command that is ignored: only the response is presented (R66, R31). -/
def ignored (s : State) : State := s.setResponse (okResponse s)

/-- A packet for `n` devices, the farthest device first, data byte before address byte (R111). -/
def packet (n : Nat) (pair : Nat → Pair) : List Event :=
  [.csLow] ++ ((List.range n).reverse.flatMap fun d => [.tx (pair d).data, .tx (pair d).addr]) ++
    [.csHigh]

/-- The packet of pixel-row `r` of a FrameBuffer (R113). -/
def rowPacket (n : Nat) (fb : Memory) (r : Nat) : List Event :=
  packet n fun d => ⟨fb.read (8 * d + r), BitVec.ofNat 8 (8 - r)⟩

/-- The eight packets of a refresh (R114). -/
def refreshPackets (n : Nat) (fb : Memory) : List Event := (List.range 8).flatMap (rowPacket n fb)

/-- A broadcast of one register write to `n` devices (R112). -/
def broadcastPacket (n : Nat) (addr val : Byte) : List Event := packet n fun _ => ⟨val, addr⟩

/-- The chain's digit registers hold the FrameBuffer, and its other registers what they held (R48). -/
def DigitsShow (s t : State) (fb : Memory) : Prop :=
  ∀ d a, t.chipReg d a =
    if d < s.deviceCount ∧ 1 ≤ a.toNat ∧ a.toNat ≤ 8 then fb.read (8 * d + (8 - a.toNat))
    else s.chipReg d a

/-- The pixels each shape command plots, the end of the shape's own rule (R130 to R136). -/
def shapePixels (s : State) : Instr → Option (List (Int × Int))
  | .point x y => some [(x.toInt, y.toInt)]
  | .drawLine x1 y1 x2 y2 => some (linePixels s.rows s.cols x1.toInt y1.toInt x2.toInt y2.toInt)
  | .drawTri x1 y1 x2 y2 x3 y3 =>
    some (triPixels s.rows s.cols x1.toInt y1.toInt x2.toInt y2.toInt x3.toInt y3.toInt)
  | .drawQuad x1 y1 x2 y2 x3 y3 x4 y4 =>
    some (quadPixels s.rows s.cols x1.toInt y1.toInt x2.toInt y2.toInt x3.toInt y3.toInt
      x4.toInt y4.toInt)
  | .drawRect x y w h => some (rectPixels x.toInt y.toInt w.toInt h.toInt)
  | .drawCircle h k r => some (ellipsePixels h.toInt k.toInt (2 * r.toInt) (2 * r.toInt))
  | .drawEllipse h k a b => some (ellipsePixels h.toInt k.toInt a.toInt b.toInt)
  | _ => none

/-- The loop of R131 from `(x, y)` with accumulator `err`, as the rule writes it: the list of the pixels
it writes.  No bound on the number of turns. -/
inductive LineLoop (dx dy sx sy x2 y2 : Int) : Int → Int → Int → List (Int × Int) → Prop where
  | stop (err : Int) : LineLoop dx dy sx sy x2 y2 x2 y2 err [(x2, y2)]
  | turn (x y err x' y' err1 err2 : Int) (ps : List (Int × Int))
      (notEnd : ¬ (x = x2 ∧ y = y2))
      (xYes : 2 * err > -dy → err1 = err - dy ∧ x' = x + sx)
      (xNo : ¬ 2 * err > -dy → err1 = err ∧ x' = x)
      (yYes : 2 * err < dx → err2 = err1 + dx ∧ y' = y + sy)
      (yNo : ¬ 2 * err < dx → err2 = err1 ∧ y' = y)
      (rest : LineLoop dx dy sx sy x2 y2 x' y' err2 ps) :
      LineLoop dx dy sx sy x2 y2 x y err ((x, y) :: ps)

/-- The pixels of `Line(x1, y1, x2, y2)` are `ps`, in the words of R131. -/
def LineDraws (R C : Nat) (x1 y1 x2 y2 : Int) (ps : List (Int × Int)) : Prop :=
  (¬ (inRange R C x1 y1 = true ∧ inRange R C x2 y2 = true) → ps = []) ∧
  (inRange R C x1 y1 = true → inRange R C x2 y2 = true →
    (y1 = y2 → ∀ x y, (x, y) ∈ ps ↔ y = y1 ∧ min x1 x2 ≤ x ∧ x ≤ max x1 x2) ∧
    (y1 ≠ y2 → LineLoop |x2 - x1| |y2 - y1| (if x1 < x2 then 1 else -1) (if y1 < y2 then 1 else -1)
      x2 y2 x1 y1 (|x2 - x1| - |y2 - y1|) ps))

/-- `round(sqrt((across^2/4) * (1 - delta^2/(along^2/4))))` over the reals, halves to the larger (R136). -/
noncomputable def roundedRoot (along across delta : Int) : Int :=
  ⌊Real.sqrt (((across : ℝ) ^ 2 / 4) * (1 - (delta : ℝ) ^ 2 / ((along : ℝ) ^ 2 / 4))) + 1 / 2⌋

/-- The pixels of `Ellipse(h, k, a, b)` in the words of R136: the two passes over the reals. -/
def OnEllipse (h k a b x y : Int) : Prop :=
  1 ≤ a ∧ 1 ≤ b ∧
  ((4 * (x - h) ^ 2 ≤ a ^ 2 ∧
      (y = k + roundedRoot a b (x - h) ∨ y = k - roundedRoot a b (x - h))) ∨
   (4 * (y - k) ^ 2 ≤ b ^ 2 ∧
      (x = h + roundedRoot b a (y - k) ∨ x = h - roundedRoot b a (y - k))))

/-- The pixels of the border of the box of DRAWRECT (R134). -/
def OnRect (x y w h px py : Int) : Prop :=
  1 ≤ w ∧ 1 ≤ h ∧ x ≤ px ∧ px ≤ x + w - 1 ∧ y ≤ py ∧ py ≤ y + h - 1 ∧
  (px = x ∨ px = x + w - 1 ∨ py = y ∨ py = y + h - 1)

/-- The pixel `(px, py)` lies in the box of width `w` and height `h` with top-left pixel `(x, y)`. -/
abbrev InBox (x y w h px py : Int) : Prop := x ≤ px ∧ px < x + w ∧ y ≤ py ∧ py < y + h

/-- The pixel of column `col` and row `row` of the glyph of `c` in the current font (R175). -/
def glyphPixel (s : State) (c : Byte) (col row : Nat) : Bool :=
  bit (((glyphSource s.params c s.font)[col]?).getD 0) (glyphBit s.params s.font row)

/-- The register write of a wire pair (R72). -/
def wirePair : Instr → Option Pair
  | .wDigit0 d => some ⟨d, 0x08⟩
  | .wDigit1 d => some ⟨d, 0x07⟩
  | .wDigit2 d => some ⟨d, 0x06⟩
  | .wDigit3 d => some ⟨d, 0x05⟩
  | .wDigit4 d => some ⟨d, 0x04⟩
  | .wDigit5 d => some ⟨d, 0x03⟩
  | .wDigit6 d => some ⟨d, 0x02⟩
  | .wDigit7 d => some ⟨d, 0x01⟩
  | .wDecode => some ⟨0x00, 0x09⟩
  | .wIntensity v => some ⟨v.setWidth 8, 0x0A⟩
  | .wScanLimit => some ⟨0x07, 0x0B⟩
  | .wShutdown n => some ⟨if n then 0x01 else 0x00, 0x0C⟩
  | .wDisplayTest => some ⟨0x00, 0x0F⟩
  | _ => none

/-- The wire pair of pixel-row `r` with data `d` (R72). -/
def digitPair (r : Nat) (d : Byte) : Instr :=
  match r with
  | 0 => .wDigit0 d
  | 1 => .wDigit1 d
  | 2 => .wDigit2 d
  | 3 => .wDigit3 d
  | 4 => .wDigit4 d
  | 5 => .wDigit5 d
  | 6 => .wDigit6 d
  | _ => .wDigit7 d

/-- Run instructions one after the other, stopping where one does not answer a next state. -/
def runAll : List Instr → State → Outcome
  | [], s => .next s
  | i :: is, s =>
    match exec i s with
    | .next t => runAll is t
    | o => o

/-- The instruction is CONSTRUCT. -/
def IsConstruct (i : Instr) : Prop := ∃ rows cols, i = .construct rows cols

/-- The opcodes of the map of R65. -/
def opcodes : List Nat :=
  [0x01, 0x02, 0x03, 0x04, 0x05, 0x10, 0x11, 0x12, 0x13, 0x20, 0x21, 0x22, 0x23,
   0x30, 0x31, 0x32, 0x33, 0x34, 0x35, 0x36, 0x40, 0x41, 0x42, 0x50, 0x51]

/-- The payload length a command word asks for (R63), none for the opcodes that take no payload. -/
def payloadCount (w : CommandWord) : Option Nat :=
  if (opcode w).toNat = 0x41 then some (slot w 1).toNat
  else if (opcode w).toNat = 0x51 then some (slot w 0).toNat
  else none

/-- How many operand slots an opcode uses (R62). -/
def slotsUsed (op : Nat) : Nat :=
  if op ∈ [0x13, 0x22, 0x23] then 0
  else if op ∈ [0x02, 0x03, 0x04, 0x05, 0x21, 0x40] then 1
  else if op ∈ [0x01, 0x20, 0x10, 0x12, 0x30, 0x42, 0x41] then 2
  else if op ∈ [0x11, 0x35, 0x50, 0x51] then 3
  else if op ∈ [0x31, 0x34, 0x36] then 4
  else if op = 0x32 then 6
  else 8

/-- The commands that may write the FrameBuffer (R36). -/
def writesFb : Instr → Bool
  | .construct .. | .setLed .. | .point .. | .clearBuf | .clrRefresh | .drawLine .. | .drawTri ..
  | .drawQuad .. | .drawRect .. | .drawCircle .. | .drawEllipse .. | .shiftRow .. | .scrollGlyph ..
  | .scrollChar .. | .drawChar .. | .drawWord .. => true
  | _ => false

/-- The instructions that may append to the trace (R36). -/
def emits : Instr → Bool
  | .setFont .. | .setScrollDelay .. | .mapAddr .. | .setLed .. | .getLed .. | .clearBuf | .point ..
  | .drawLine .. | .drawTri .. | .drawQuad .. | .drawRect .. | .drawCircle .. | .drawEllipse .. => false
  | _ => true

/-- The instructions that may send a packet (R36). -/
def transmits : Instr → Bool
  | .shiftRow .. | .drawChar .. | .drawWord .. => false
  | i => emits i

/-- The columns SCROLLGLYPH steps through: the payload, and a blank one in the 5×7 font (R163). -/
def steppedColumns (s : State) (payload : List Byte) : List Byte :=
  if s.font = .f5x7 then payload ++ [0x00] else payload

/-- The pixel `(x, y)` of module-row `mr` after `k` column steps from state `s` (R163, R165, R162). -/
def scrolledPixel (s : State) (columns : List Byte) (k : Nat) (x y : Int) : Bool :=
  if x + k < 8 * s.cols then readPixel s (x + k) y
  else
    decide ((y % 8).toNat < fontRows s.font) &&
      bit ((columns[(x + k - 8 * s.cols).toNat]?).getD 0) (glyphBit s.params s.font (y % 8).toNat)

end Sys2Proof.Claims

open Sys2Proof.Claims

/-! ### Encoding -/

/-- Decoding the encoding of a well-formed instruction gives it back (R61, R62, R63, R65, R70, R72). -/
def Obligations.DecodeOfEncode : Prop :=
  ∀ i : Instr, i.wellFormed = true → decode (encode i) = .ok i

/-- A wire pair that decodes is exactly the encoding of what it decodes to (R72). -/
def Obligations.EncodeOfDecodedPair : Prop :=
  ∀ (p : PairWord) (i : Instr), decode (.pair p) = .ok i → encode i = .pair p

/-- Slots an opcode does not use, and the payload of an opcode that takes none, are ignored (R62, D4). -/
def Obligations.UnusedSlotsAreIgnored : Prop :=
  ∀ (w w' : CommandWord) (pl pl' : List Byte), opcode w = opcode w' →
    (∀ i, i < slotsUsed (opcode w).toNat → slot w i = slot w' i) →
    (payloadCount w ≠ none → pl = pl') →
    (decode (.command w pl)).toOption = (decode (.command w' pl')).toOption

/-- Command words of 95_test_vectors.md and pairs of R72 decode to the instructions they stand for. -/
def Obligations.SpecWordsDecode : Prop :=
  decode (.command 0x0100010002000000000000000000000000 []) = .ok (.construct 1 2) ∧
  decode (.command 0x0200050000000000000000000000000000 []) = .ok (.setIntensity 5) ∧
  decode (.command 0x10000A000D000000000000000000000000 []) = .ok (.mapAddr 10 13) ∧
  decode (.command 0x11FFFF0003000100000000000000000000 []) = .ok (.setLed (BitVec.ofInt 16 (-1)) 3 1) ∧
  decode (.command 0x2100070000000000000000000000000000 []) = .ok (.refreshRow 7) ∧
  decode (.command 0x3300010001000600010006000600010006 []) = .ok (.drawQuad 1 1 6 1 6 6 1 6) ∧
  decode (.command 0x4100000002000000000000000000000000 [0xFF, 0x81]) =
    .ok (.scrollGlyph 0 2 [0xFF, 0x81]) ∧
  decode (.command 0x5100020000000000000000000000000000 [0x41, 0x42]) =
    .ok (.drawWord 2 0 0 [0x41, 0x42]) ∧
  decode (.pair 0xFC05) = .ok (.wDigit3 0xFC) ∧
  decode (.pair 0x050A) = .ok (.wIntensity 5)

/-! ### The step -/

/-- A step runs exec of the decoded transfer with the transfer taken; with an empty port it changes nothing
(log 5); a command that decodes to nothing is taken and only answered (R66); a pair that is none of the rows
of R72 is taken and does nothing (log 7). -/
def Obligations.StepRunsDecodedInstruction : Prop :=
  ∀ s : State,
    (∀ w pl rest i, s.port = .command w pl :: rest → decode (.command w pl) = .ok i →
      step s = exec i (s.setPort rest)) ∧
    (∀ p rest i, s.port = .pair p :: rest → decode (.pair p) = .ok i →
      step s = exec i (s.setPort rest)) ∧
    (s.port = [] → step s = .next s) ∧
    (∀ w pl rest e, s.port = .command w pl :: rest → decode (.command w pl) = .error e →
      step s = .next (ignored (s.setPort rest))) ∧
    (∀ p rest e, s.port = .pair p :: rest → decode (.pair p) = .error e →
      step s = .next (s.setPort rest))

/-- Dispatch of a command (R66), in every state: reserved opcode, life-cycle, payload length; else the rule
named.  The response value of a query ignored while UNCONFIGURED is left open, and the model's own counter
may move there (log 8). -/
def Obligations.DispatchOfCommands : Prop :=
  ∀ (s : State) (w : CommandWord) (pl : List Byte) (rest : List Transfer),
    s.port = .command w pl :: rest →
    ((opcode w).toNat ∉ opcodes → step s = .next (ignored (s.setPort rest))) ∧
    (s.configured = false → (opcode w).toNat ≠ 0x01 → ∃ n value,
      step s = .next (({ s.setPort rest with freeCount := n }).setResponse
        ⟨false, s.cfgErr, true, value⟩) ∧
      ((opcode w).toNat ≠ 0x10 → (opcode w).toNat ≠ 0x12 → n = s.freeCount ∧ value = 0)) ∧
    (s.configured = true → (opcode w).toNat = 0x01 → step s = .next (ignored (s.setPort rest))) ∧
    (∀ n, payloadCount w = some n → pl.length ≠ n → step s = .next (ignored (s.setPort rest))) ∧
    ((opcode w).toNat ∈ opcodes → (∀ n, payloadCount w = some n → pl.length = n) →
      ∃ i, decode (.command w pl) = .ok i ∧ step s = exec i (s.setPort rest))

/-- The core never traps: from every state every run goes on (R210). -/
def Obligations.MachineNeverStops : Prop := ∀ (k : Nat) (s : State), SafeRun k s

/-- Every step keeps the invariant of Safety.lean (R14, R23, R25, R29, R44). -/
def Obligations.StepKeepsInvariant : Prop :=
  ∀ s t : State, Inv s → step s = .next t → Inv t

/-- The reset state meets the invariant, and its parameters are admissible (R35, R5, R175). -/
def Obligations.ResetMeetsInvariant : Prop := Inv State.reset ∧ Params.wf State.reset.params = true

/-- Every field of the state after reset (R35, R240).  The parameters (log 1), the empty response (log 9) and port
(log 5) and the free-value counter (log 3, log 8) are the model's own choice. -/
def Obligations.ResetState : Prop :=
  State.reset.configured = false ∧ State.reset.cfgErr = false ∧ State.reset.rows = 0 ∧
  State.reset.cols = 0 ∧ State.reset.fb = [] ∧ State.reset.fbLen = 0 ∧ State.reset.font = .f8x8 ∧
  State.reset.scrollDelay = State.reset.params.initScrollDelay ∧
  State.reset.intensity = State.reset.params.initIntensity ∧ State.reset.shutdown = false ∧
  State.reset.params = Config.params ∧ State.reset.line.cs = true ∧
  State.reset.line.chain = [] ∧ State.reset.trace = [] ∧ State.reset.response = none ∧
  State.reset.port = [] ∧ State.reset.freeCount = 0 ∧
  (∀ d a, State.reset.chipReg d a = Config.chipPowerOn d a)

/-- The grid is immutable after construction, CONFIGURED is never left, and no step writes a parameter
(R14, R16, R5). -/
def Obligations.GridIsImmutable : Prop :=
  ∀ s t : State, step s = .next t → t.params = s.params ∧
    (s.configured = true → t.configured = true ∧ t.rows = s.rows ∧ t.cols = s.cols)

/-- The two status flags (R16): reset clears both; a successful CONSTRUCT sets `configured` and clears
`cfg_err`; a failing one sets `cfg_err` alone; nothing else writes either. -/
def Obligations.LifeCycleFlags : Prop :=
  State.reset.configured = false ∧ State.reset.cfgErr = false ∧
  ∀ (s t : State) (i : Instr), exec i s = .next t →
    (¬ IsConstruct i → t.configured = s.configured ∧ t.cfgErr = s.cfgErr) ∧
    (∀ rows cols, i = .construct rows cols →
      (s.configured = true → t.configured = true ∧ t.cfgErr = s.cfgErr) ∧
      (s.configured = false →
        (1 ≤ rows.toNat ∧ 1 ≤ cols.toNat ∧ rows.toNat * cols.toNat ≤ s.params.maxDevices →
          t.configured = true ∧ t.cfgErr = false) ∧
        (¬ (1 ≤ rows.toNat ∧ 1 ≤ cols.toNat ∧ rows.toNat * cols.toNat ≤ s.params.maxDevices) →
          t.configured = false ∧ t.cfgErr = true)))

/-- The trace is append-only, and the line follows the events appended (R29, R25). -/
def Obligations.TraceIsAppendOnly : Prop :=
  ∀ s t : State, step s = .next t →
    ∃ es, t.trace = s.trace ++ es ∧ t.line = es.foldl lineStep s.line

/-- Which instruction may write the grid, the display state, the FrameBuffer, the trace and the line (the table
of R36; for the wire pairs log 7).  Which bytes, flags and responses an instruction writes, the statements
about it say. -/
def Obligations.WhoWritesWhat : Prop :=
  ∀ (s t : State) (i : Instr), exec i s = .next t →
    t.params = s.params ∧ t.port = s.port ∧
    (¬ IsConstruct i → t.rows = s.rows ∧ t.cols = s.cols) ∧
    (¬ IsConstruct i → (∀ f, i ≠ .setFont f) → t.font = s.font) ∧
    (¬ IsConstruct i → (∀ d, i ≠ .setScrollDelay d) → t.scrollDelay = s.scrollDelay) ∧
    (¬ IsConstruct i → (∀ v, i ≠ .setIntensity v) → t.intensity = s.intensity) ∧
    (¬ IsConstruct i → (∀ b, i ≠ .setShutdown b) → t.shutdown = s.shutdown) ∧
    (writesFb i = false → t.fb = s.fb) ∧
    (emits i = false → t.trace = s.trace) ∧
    (transmits i = false → t.line = s.line)

/-- Between instructions chip-select is high: every instruction opens and closes its packets itself (R23; for
the wire pairs log 7). -/
def Obligations.CommandsLeaveChipSelectHigh : Prop :=
  ∀ (s t : State) (i : Instr), s.line.cs = true → exec i s = .next t →
    t.line.cs = true

/-- The response record at the end of every command, in every state (R31).  The value of a query ignored while
UNCONFIGURED is left open (log 8). -/
def Obligations.ResponseOfCommands : Prop :=
  ∀ (s : State) (w : CommandWord) (pl : List Byte) (rest : List Transfer),
    s.port = .command w pl :: rest →
    ∃ t ok value, step s = .next t ∧
      t.response = some ⟨t.configured, t.cfgErr, ok, value⟩ ∧
      (ok = false ↔ (opcode w).toNat = 0x01 ∧ s.configured = false ∧
        ¬ (1 ≤ (slot w 0).toNat ∧ 1 ≤ (slot w 1).toNat ∧
          (slot w 0).toNat * (slot w 1).toNat ≤ s.params.maxDevices)) ∧
      ((opcode w).toNat ≠ 0x10 → (opcode w).toNat ≠ 0x12 → value = 0) ∧
      ((opcode w).toNat = 0x12 → s.configured = true →
        value = if readPixel s (slot w 0).toInt (slot w 1).toInt then 1 else 0) ∧
      ((opcode w).toNat = 0x10 → s.configured = true →
        (inRange s.rows s.cols (slot w 0).toInt (slot w 1).toInt = true →
          value = mapValue s.cols (slot w 0).toInt (slot w 1).toInt) ∧
        (inRange s.rows s.cols (slot w 0).toInt (slot w 1).toInt = false →
          value.getLsbD 31 = false))

/-- Nothing in the core reads the intensity or the shutdown flag to decide anything (R19, R20): two states
that differ only there stay so, whatever runs. -/
def Obligations.IntensityAndShutdownDecideNothing : Prop :=
  ∀ (s : State) (i : Instr) (v : Fin 16) (b : Bool),
    ∃ t t', exec i s = .next t ∧ exec i ((s.setIntensity v).setShutdown b) = .next t' ∧
      (t'.setIntensity t.intensity).setShutdown t.shutdown = t

/-! ### The address mapper -/

/-- The literal mapper formula is the layout `8*(mc + mr*C) + r` (R93). -/
def Obligations.MapIsTheLayout : Prop :=
  ∀ (R C : Nat) (x y : Int), inRange R C x y = true →
    (mapIndex C x y : Int) = 8 * (x / 8 + y / 8 * ((C : Int) - 1)) + y ∧
    (mapIndex C x y : Int) = 8 * (x / 8 + y / 8 * (C : Int)) + y % 8 ∧
    (mapBit x : Int) = x % 8

/-- The properties (a) to (f) of the mapper on its domain (R94). -/
def Obligations.MapProperties : Prop :=
  ∀ R C : Nat,
    (∀ x y, inRange R C x y = true → mapIndex C x y < 8 * (R * C) ∧ mapBit x ≤ 7) ∧
    (1 ≤ R → 1 ≤ C → inRange R C (8 * C - 1) (8 * R - 1) = true ∧
      mapIndex C (8 * C - 1) (8 * R - 1) = 8 * (R * C) - 1 ∧ mapBit (8 * C - 1) = 7) ∧
    (∀ x y x' y', inRange R C x y = true → inRange R C x' y' = true →
      mapIndex C x y = mapIndex C x' y' → mapBit x = mapBit x' → x = x' ∧ y = y') ∧
    (∀ i b : Nat, i < 8 * (R * C) → b ≤ 7 →
      inRange R C (8 * (i / 8 % C) + b : Nat) (8 * (i / 8 / C) + i % 8 : Nat) = true ∧
      mapIndex C (8 * (i / 8 % C) + b : Nat) (8 * (i / 8 / C) + i % 8 : Nat) = i ∧
      mapBit (8 * (i / 8 % C) + b : Nat) = b) ∧
    (∀ x y, R = 1 → inRange R C x y = true → (mapIndex C x y : Int) = 8 * (x / 8) + y) ∧
    (∀ x y, C = 1 → inRange R C x y = true → (mapIndex C x y : Int) = y) ∧
    (∀ x y, inRange R C x y = true → inRange R C (x + 1) y = true →
      (x % 8 ≠ 7 → mapIndex C (x + 1) y = mapIndex C x y ∧ mapBit (x + 1) = mapBit x + 1) ∧
      (x % 8 = 7 → mapIndex C (x + 1) y = mapIndex C x y + 8 ∧ mapBit (x + 1) = 0)) ∧
    (∀ x y, inRange R C x y = true → inRange R C x (y + 1) = true →
      (y % 8 ≠ 7 → mapIndex C x (y + 1) = mapIndex C x y + 1) ∧
      (y % 8 = 7 → mapIndex C x (y + 1) + 7 = mapIndex C x y + 8 * C))

/-- MAPADDR (R92).  Out of range only bit 31 is defined, and nothing the spec gives the machine is written
but the response; the model's own counter may move (log 3). -/
def Obligations.MapAddrAnswers : Prop :=
  ∀ (s : State) (x y : Slot), s.configured = true →
    (inRange s.rows s.cols x.toInt y.toInt = true →
      ∃ value, exec (.mapAddr x y) s = .next (s.setResponse ⟨s.configured, s.cfgErr, true, value⟩) ∧
        value.getLsbD 31 = true ∧
        value.extractLsb' 3 28 = BitVec.ofNat 28 (mapIndex s.cols x.toInt y.toInt) ∧
        value.extractLsb' 0 3 = BitVec.ofNat 3 (mapBit x.toInt)) ∧
    (inRange s.rows s.cols x.toInt y.toInt = false →
      ∃ n value, exec (.mapAddr x y) s =
          .next (({ s with freeCount := n }).setResponse ⟨s.configured, s.cfgErr, true, value⟩) ∧
        value.getLsbD 31 = false)

/-! ### The FrameBuffer -/

/-- GETLED (R103, R101): bit `b` of byte `i` for `(i, b) = Map(x, y)`, 0 out of range; nothing written. -/
def Obligations.GetLedAnswers : Prop :=
  ∀ (s : State) (x y : Slot), s.configured = true →
    exec (.getLed x y) s = .next (s.setResponse ⟨s.configured, s.cfgErr, true,
      if inRange s.rows s.cols x.toInt y.toInt = true ∧
        (s.fb.read (mapIndex s.cols x.toInt y.toInt)).getLsbD (mapBit x.toInt) = true
      then 1 else 0⟩)

/-- SETLED and read-back (R102, R105): the pixel reads as written and every other as before; out of range
no byte changes; every byte but the mapped one is unchanged. -/
def Obligations.SetLedReadsBack : Prop :=
  ∀ (s : State) (x y on : Slot), s.configured = true → s.fb.wf = true →
    ∃ t, exec (.setLed x y on) s = .next t ∧ OnlyFb s t ∧ t.response = some (okResponse s) ∧
      (∀ a b, inRange s.rows s.cols a b = true → readPixel t a b =
        if a = x.toInt ∧ b = y.toInt then decide (on.toNat ≠ 0) else readPixel s a b) ∧
      (inRange s.rows s.cols x.toInt y.toInt = false → ∀ a, t.fb.read a = s.fb.read a) ∧
      (∀ a, a ≠ mapIndex s.cols x.toInt y.toInt → t.fb.read a = s.fb.read a)

/-- CLEARBUF (R104): every byte is 0x00, every pixel is off, nothing else changes. -/
def Obligations.ClearBufClears : Prop :=
  ∀ s : State, s.configured = true →
    ∃ t, exec .clearBuf s = .next t ∧ OnlyFb s t ∧ t.response = some (okResponse s) ∧
      (∀ a, t.fb.read a = 0x00) ∧ (∀ x y, readPixel t x y = false)

/-! ### The chain -/

/-- `SendPacket` (R111): the packet buffer's bytes in order of transmission, framed by chip-select. -/
def Obligations.PacketOnTheWire : Prop :=
  ∀ (s : State) (pair : Nat → Pair),
    ∃ P : List Byte,
      (sendPacket s pair).trace = s.trace ++ [.csLow] ++ P.map .tx ++ [.csHigh] ∧
      P.length = s.packetBytes ∧
      (∀ j, j < s.deviceCount →
        P[2 * j]? = some (pair (s.deviceCount - 1 - j)).data ∧
        P[2 * j + 1]? = some (pair (s.deviceCount - 1 - j)).addr) ∧
      (sendPacket s pair).line.cs = true

/-- At the `CS_HIGH` of a packet every device performs its own register write, and no other register of
the chain changes (R119, R25). -/
def Obligations.PacketCommitsAtEveryDevice : Prop :=
  ∀ (s : State) (pair : Nat → Pair) (d : Nat) (a : Byte),
    (sendPacket s pair).chipReg d a =
      if d < s.deviceCount ∧ a = (pair d).addr then (pair d).data else s.chipReg d a

/-- BCAST (R115, R112). -/
def Obligations.BcastSends : Prop :=
  ∀ (s : State) (addr val : Slot), s.configured = true →
    (addr.toNat > 255 ∨ val.toNat > 255 → exec (.bcast addr val) s = .next (ignored s)) ∧
    (addr.toNat ≤ 255 → val.toNat ≤ 255 →
      ∃ t, exec (.bcast addr val) s = .next t ∧ OnlyFbAndTrace s t ∧ t.fb = s.fb ∧
        t.line.cs = true ∧ t.response = some (okResponse s) ∧
        t.trace = s.trace ++
          broadcastPacket s.deviceCount (BitVec.ofNat 8 addr.toNat) (BitVec.ofNat 8 val.toNat) ∧
        ∀ d a, t.chipReg d a =
          if d < s.deviceCount ∧ a = BitVec.ofNat 8 addr.toNat then BitVec.ofNat 8 val.toNat
          else s.chipReg d a)

/-- REFRESHROW (R116, R113). -/
def Obligations.RefreshRowSends : Prop :=
  ∀ (s : State) (row : Slot), s.configured = true →
    (row.toNat > 7 → exec (.refreshRow row) s = .next (ignored s)) ∧
    (row.toNat ≤ 7 →
      ∃ t, exec (.refreshRow row) s = .next t ∧ OnlyFbAndTrace s t ∧ t.fb = s.fb ∧
        t.line.cs = true ∧ t.response = some (okResponse s) ∧
        t.trace = s.trace ++ rowPacket s.deviceCount s.fb row.toNat ∧
        ∀ d a, t.chipReg d a =
          if d < s.deviceCount ∧ a = BitVec.ofNat 8 (8 - row.toNat) then s.fb.read (8 * d + row.toNat)
          else s.chipReg d a)

/-- REFRESH (R117, R114): eight packets in order; after them every device's digit register `8 - r` holds
the FrameBuffer's byte `8*d + r` (R48). -/
def Obligations.RefreshShowsTheFrameBuffer : Prop :=
  ∀ s : State, s.configured = true →
    ∃ t, exec .refresh s = .next t ∧ OnlyFbAndTrace s t ∧ t.fb = s.fb ∧
      t.line.cs = true ∧
      t.response = some (okResponse s) ∧
      t.trace = s.trace ++ refreshPackets s.deviceCount s.fb ∧
      DigitsShow s t s.fb

/-- CLRREFRESH (R118): every byte 0x00, then the eight packets of zeros. -/
def Obligations.ClrRefreshClearsAndSends : Prop :=
  ∀ s : State, s.configured = true →
    ∃ t, exec .clrRefresh s = .next t ∧ OnlyFbAndTrace s t ∧ (∀ a, t.fb.read a = 0x00) ∧
      t.line.cs = true ∧ t.response = some (okResponse s) ∧
      t.trace = s.trace ++ (List.range 8).flatMap (fun r =>
        broadcastPacket s.deviceCount (BitVec.ofNat 8 (8 - r)) 0x00) ∧
      DigitsShow s t []

/-! ### Construction and configuration -/

/-- CONSTRUCT (R190, R211): failure sets `cfg_err` and answers `ok = 0`, nothing else changes; success fixes
the grid, the display state and the zeroed FrameBuffer and sends the 13 packets of bring-up in order;
a CONSTRUCT while CONFIGURED is ignored. -/
def Obligations.ConstructOutcome : Prop :=
  ∀ (s : State) (rows cols : Slot),
    (s.configured = true → exec (.construct rows cols) s = .next (ignored s)) ∧
    (s.configured = false →
      (rows.toNat < 1 ∨ cols.toNat < 1 ∨ rows.toNat * cols.toNat > s.params.maxDevices →
        exec (.construct rows cols) s =
          .next ((s.setCfgErr true).setResponse ⟨false, true, false, 0⟩)) ∧
      (1 ≤ rows.toNat → 1 ≤ cols.toNat → rows.toNat * cols.toNat ≤ s.params.maxDevices →
        ∃ t, exec (.construct rows cols) s = .next t ∧
          t.configured = true ∧ t.cfgErr = false ∧ t.rows = rows.toNat ∧ t.cols = cols.toNat ∧
          (∀ a, t.fb.read a = 0x00) ∧ t.font = .f8x8 ∧
          t.scrollDelay = s.params.initScrollDelay ∧ t.intensity = s.params.initIntensity ∧
          t.shutdown = false ∧ t.line.cs = true ∧
          t.response = some ⟨true, false, true, 0⟩ ∧
          t.params = s.params ∧ t.port = s.port ∧ t.freeCount = s.freeCount ∧
          t.trace = s.trace ++
            broadcastPacket t.deviceCount s.params.chip.regDisplayTest s.params.chip.valTestOff ++
            broadcastPacket t.deviceCount s.params.chip.regScanLimit s.params.chip.valScanAll ++
            broadcastPacket t.deviceCount s.params.chip.regDecode s.params.chip.valDecodeNone ++
            broadcastPacket t.deviceCount s.params.chip.regIntensity
              (BitVec.ofNat 8 s.params.initIntensity.val) ++
            broadcastPacket t.deviceCount s.params.chip.regShutdown s.params.chip.valShutdownOff ++
            refreshPackets t.deviceCount []))

/-- After construction the chain shows a blank, lit display at the initial intensity and agrees with the
FrameBuffer (R241), with the register map of R5 (log 2). -/
def Obligations.ConstructBringsUpTheChain : Prop :=
  ∀ (s : State) (rows cols : Slot), s.configured = false → s.params.chip = Config.chip →
    1 ≤ rows.toNat → 1 ≤ cols.toNat → rows.toNat * cols.toNat ≤ s.params.maxDevices →
    ∃ t, exec (.construct rows cols) s = .next t ∧ t.intensity = s.params.initIntensity ∧
      ∀ d, d < rows.toNat * cols.toNat →
        t.chipReg d 0x0F = 0x00 ∧ t.chipReg d 0x0B = 0x07 ∧ t.chipReg d 0x09 = 0x00 ∧
        t.chipReg d 0x0A = BitVec.ofNat 8 t.intensity.val ∧ t.chipReg d 0x0C = 0x01 ∧
        (∀ r, r < 8 → t.chipReg d (BitVec.ofNat 8 (8 - r)) = t.fb.read (8 * d + r) ∧
          t.fb.read (8 * d + r) = 0x00) ∧
        (∀ a : Byte, a.toNat ∉ [1, 2, 3, 4, 5, 6, 7, 8, 9, 10, 11, 12, 15] →
          t.chipReg d a = s.chipReg d a)

/-- SETINTENSITY (R191): above 15 ignored; else the state and one broadcast packet. -/
def Obligations.SetIntensityOutcome : Prop :=
  ∀ (s : State) (v : Slot), s.configured = true →
    (v.toNat > 15 → exec (.setIntensity v) s = .next (ignored s)) ∧
    (v.toNat ≤ 15 →
      ∃ t, exec (.setIntensity v) s = .next t ∧ OnlyFbAndTrace (s.setIntensity t.intensity) t ∧
        t.intensity.val = v.toNat ∧ t.fb = s.fb ∧ t.line.cs = true ∧
        t.response = some (okResponse s) ∧
        t.trace = s.trace ++
          broadcastPacket s.deviceCount s.params.chip.regIntensity (BitVec.ofNat 8 v.toNat) ∧
        ∀ d a, t.chipReg d a =
          if d < s.deviceCount ∧ a = s.params.chip.regIntensity then BitVec.ofNat 8 v.toNat
          else s.chipReg d a)

/-- SETSHUTDOWN (R192): the flag, and one broadcast of `VAL_SHUTDOWN_ON` or `VAL_SHUTDOWN_OFF`. -/
def Obligations.SetShutdownOutcome : Prop :=
  ∀ (s : State) (b : Slot), s.configured = true →
    ∃ t, exec (.setShutdown b) s = .next t ∧ OnlyFbAndTrace (s.setShutdown t.shutdown) t ∧
      (t.shutdown = true ↔ b.toNat ≠ 0) ∧ t.fb = s.fb ∧ t.line.cs = true ∧
      t.response = some (okResponse s) ∧
      t.trace = s.trace ++ broadcastPacket s.deviceCount s.params.chip.regShutdown
        (if b.toNat ≠ 0 then s.params.chip.valShutdownOn else s.params.chip.valShutdownOff) ∧
      ∀ d a, t.chipReg d a =
        if d < s.deviceCount ∧ a = s.params.chip.regShutdown then
          (if b.toNat ≠ 0 then s.params.chip.valShutdownOn else s.params.chip.valShutdownOff)
        else s.chipReg d a

/-- SETFONT (R193): 0 is 5×7, 1 is 8×8, other values are ignored; nothing else changes. -/
def Obligations.SetFontOutcome : Prop :=
  ∀ (s : State) (f : Slot), s.configured = true →
    (f.toNat = 0 → exec (.setFont f) s = .next ((s.setFont .f5x7).setResponse (okResponse s))) ∧
    (f.toNat = 1 → exec (.setFont f) s = .next ((s.setFont .f8x8).setResponse (okResponse s))) ∧
    (f.toNat > 1 → exec (.setFont f) s = .next (ignored s))

/-- SETSCROLLDELAY (R194): every value is stored; nothing else changes. -/
def Obligations.SetScrollDelayStores : Prop :=
  ∀ (s : State) (d : Slot), s.configured = true →
    exec (.setScrollDelay d) s = .next ((s.setScrollDelay d).setResponse (okResponse s))

/-! ### Shapes -/

/-- Every shape only switches pixels on: the old pixels or those of its rule; only the bytes of its in-range
pixels may change, and nothing but the FrameBuffer (R139 (a)). -/
def Obligations.ShapesOnlySetPixels : Prop :=
  ∀ (s : State) (i : Instr) (ps : List (Int × Int)),
    s.configured = true → s.fb.wf = true → shapePixels s i = some ps →
    ∃ t, exec i s = .next t ∧ OnlyFb s t ∧ t.response = some (okResponse s) ∧
      (∀ x y, inRange s.rows s.cols x y = true →
        (readPixel t x y = true ↔ readPixel s x y = true ∨ (x, y) ∈ ps)) ∧
      (∀ a, (∀ p ∈ ps, inRange s.rows s.cols p.1 p.2 = true → a ≠ mapIndex s.cols p.1 p.2) →
        t.fb.read a = s.fb.read a)

/-- The result of plotting does not depend on the order, and plotting a pixel twice is harmless
(R139 (a)). -/
def Obligations.PlotOrderDoesNotMatter : Prop :=
  ∀ (s : State) (ps qs : List (Int × Int)), s.fb.wf = true → (∀ p, p ∈ ps ↔ p ∈ qs) →
    plot s ps = plot s qs

/-- POINT x, y is SETLED x, y, 1 (R130). -/
def Obligations.PointIsSetLedOn : Prop :=
  ∀ (s : State) (x y : Slot), exec (.point x y) s = exec (.setLed x y 1) s

/-- DRAWLINE (R131): rejected wholesale when an endpoint is out of range; the inclusive horizontal range;
else the pixels of the integer Bresenham loop as the rule writes it. -/
def Obligations.DrawLineDrawsTheLoop : Prop :=
  ∀ (s : State) (x1 y1 x2 y2 : Slot), s.configured = true → s.fb.wf = true →
    ∃ t ps, exec (.drawLine x1 y1 x2 y2) s = .next t ∧ OnlyFb s t ∧
      t.response = some (okResponse s) ∧
      LineDraws s.rows s.cols x1.toInt y1.toInt x2.toInt y2.toInt ps ∧
      ∀ x y, inRange s.rows s.cols x y = true →
        (readPixel t x y = true ↔ readPixel s x y = true ∨ (x, y) ∈ ps)

/-- `Line` writes `max(dx, dy) + 1` distinct pixels, the first `(x1, y1)`, the last `(x2, y2)`, all in the
bounding box of the endpoints (R137 (a), (b), (c)); the horizontal case runs from the smaller `x`. -/
def Obligations.LineReachesItsEnd : Prop :=
  ∀ (R C : Nat) (x1 y1 x2 y2 : Int), inRange R C x1 y1 = true → inRange R C x2 y2 = true →
    let ps := linePixels R C x1 y1 x2 y2
    (ps.length : Int) = max |x2 - x1| |y2 - y1| + 1 ∧ ps.Nodup ∧
    (x1, y1) ∈ ps ∧ (x2, y2) ∈ ps ∧
    (y1 ≠ y2 → ps.head? = some (x1, y1) ∧ ps.getLast? = some (x2, y2)) ∧
    (∀ p ∈ ps, min x1 x2 ≤ p.1 ∧ p.1 ≤ max x1 x2 ∧ min y1 y2 ≤ p.2 ∧ p.2 ≤ max y1 y2 ∧
      inRange R C p.1 p.2 = true)

/-- `Line` sets one pixel in each column or each row of its box, and consecutive pixels are
8-neighbours; vertical and diagonal lines are exact (R137 (d), (e), (f)). -/
def Obligations.LineIsConnected : Prop :=
  ∀ (R C : Nat) (x1 y1 x2 y2 : Int), inRange R C x1 y1 = true → inRange R C x2 y2 = true →
    let ps := linePixels R C x1 y1 x2 y2
    (|y2 - y1| ≤ |x2 - x1| → ∀ x, min x1 x2 ≤ x → x ≤ max x1 x2 → ∃! y, (x, y) ∈ ps) ∧
    (|x2 - x1| ≤ |y2 - y1| → ∀ y, min y1 y2 ≤ y → y ≤ max y1 y2 → ∃! x, (x, y) ∈ ps) ∧
    List.IsChain (fun p q => |q.1 - p.1| ≤ 1 ∧ |q.2 - p.2| ≤ 1) ps ∧
    (x1 = x2 → ∀ x y, (x, y) ∈ ps ↔ x = x1 ∧ min y1 y2 ≤ y ∧ y ≤ max y1 y2) ∧
    (|x2 - x1| = |y2 - y1| → ∀ x y, (x, y) ∈ ps ↔
      min x1 x2 ≤ x ∧ x ≤ max x1 x2 ∧ min y1 y2 ≤ y ∧ y ≤ max y1 y2 ∧ |x - x1| = |y - y1|)

/-- DRAWTRI (R132): nothing when the last vertex is out of range, else the three DRAWLINEs of the edge cycle
one after the other. -/
def Obligations.DrawTriIsThreeLines : Prop :=
  ∀ (s : State) (x1 y1 x2 y2 x3 y3 : Slot), s.configured = true →
    (inRange s.rows s.cols x3.toInt y3.toInt = false →
      exec (.drawTri x1 y1 x2 y2 x3 y3) s = .next (ignored s)) ∧
    (inRange s.rows s.cols x3.toInt y3.toInt = true →
      ∃ t, exec (.drawTri x1 y1 x2 y2 x3 y3) s = .next t ∧
        runAll [.drawLine x1 y1 x2 y2, .drawLine x2 y2 x3 y3, .drawLine x3 y3 x1 y1] s = .next t)

/-- DRAWQUAD (R133): nothing when the last vertex is out of range, else the four DRAWLINEs of the edge cycle
one after the other. -/
def Obligations.DrawQuadIsFourLines : Prop :=
  ∀ (s : State) (x1 y1 x2 y2 x3 y3 x4 y4 : Slot), s.configured = true →
    (inRange s.rows s.cols x4.toInt y4.toInt = false →
      exec (.drawQuad x1 y1 x2 y2 x3 y3 x4 y4) s = .next (ignored s)) ∧
    (inRange s.rows s.cols x4.toInt y4.toInt = true →
      ∃ t, exec (.drawQuad x1 y1 x2 y2 x3 y3 x4 y4) s = .next t ∧
        runAll [.drawLine x1 y1 x2 y2, .drawLine x2 y2 x3 y3, .drawLine x3 y3 x4 y4,
          .drawLine x4 y4 x1 y1] s = .next t)

/-- DRAWRECT (R134): the border of the box, each pixel clamped on its own; of size `2w + 2h - 4`, or
`max(w, h)` when one extent is 1; nothing when `w < 1` or `h < 1`. -/
def Obligations.DrawRectDrawsTheBorder : Prop :=
  (∀ (s : State) (x y w h : Slot), s.configured = true → s.fb.wf = true →
    ∃ t, exec (.drawRect x y w h) s = .next t ∧ OnlyFb s t ∧ t.response = some (okResponse s) ∧
      ∀ px py, inRange s.rows s.cols px py = true →
        (readPixel t px py = true ↔
          readPixel s px py = true ∨ OnRect x.toInt y.toInt w.toInt h.toInt px py)) ∧
  (∀ (x y w h : Int), 1 ≤ w → 1 ≤ h →
    ((rectPixels x y w h).toFinset.card : Int) =
      if 2 ≤ w ∧ 2 ≤ h then 2 * w + 2 * h - 4 else max w h)

/-- DRAWELLIPSE (R136): the pixels of the two passes over the exact reals, rounded with halves to the
larger, each clamped on its own; nothing when an axis is below 1. -/
def Obligations.DrawEllipseIsTheClosedForm : Prop :=
  ∀ (s : State) (h k a b : Slot), s.configured = true → s.fb.wf = true →
    ∃ t, exec (.drawEllipse h k a b) s = .next t ∧ OnlyFb s t ∧ t.response = some (okResponse s) ∧
      ∀ x y, inRange s.rows s.cols x y = true →
        (readPixel t x y = true ↔
          readPixel s x y = true ∨ OnEllipse h.toInt k.toInt a.toInt b.toInt x y)

/-- The plotted set of an ellipse is symmetric in both axes through its centre, and reaches
`(h, k ± round(b/2))` and `(h ± round(a/2), k)` (R141 (a), (b)). -/
def Obligations.EllipseIsSymmetric : Prop :=
  ∀ h k a b x y : Int,
    ((x, y) ∈ ellipsePixels h k a b ↔ (2 * h - x, y) ∈ ellipsePixels h k a b) ∧
    ((x, y) ∈ ellipsePixels h k a b ↔ (x, 2 * k - y) ∈ ellipsePixels h k a b) ∧
    (1 ≤ a → 1 ≤ b → (h, k + (b + 1) / 2) ∈ ellipsePixels h k a b ∧
      (h + (a + 1) / 2, k) ∈ ellipsePixels h k a b)

/-- DRAWCIRCLE h, k, r is DRAWELLIPSE h, k, 2r, 2r (R135): the same effect wherever `2r` is an operand, and
for every operand the pixels of that ellipse; nothing when `r < 1`. -/
def Obligations.DrawCircleIsAnEllipse : Prop :=
  ∀ (s : State) (h k r : Slot), s.configured = true → s.fb.wf = true →
    (∀ a : Slot, a.toInt = 2 * r.toInt → exec (.drawCircle h k r) s = exec (.drawEllipse h k a a) s) ∧
    (r.toInt < 1 → exec (.drawCircle h k r) s = .next (ignored s)) ∧
    ∃ t, exec (.drawCircle h k r) s = .next t ∧ OnlyFb s t ∧ t.response = some (okResponse s) ∧
      ∀ x y, inRange s.rows s.cols x y = true →
        (readPixel t x y = true ↔ readPixel s x y = true ∨
          OnEllipse h.toInt k.toInt (2 * r.toInt) (2 * r.toInt) x y)

/-! ### Scrolling -/

/-- SHIFTROW (R161): out of range ignored; else one DELAY and no packet, the net effect of R165 on the bytes
and the pixels of the module-row, every other byte unchanged. -/
def Obligations.ShiftRowNetEffect : Prop :=
  ∀ (s : State) (mr : Slot), s.configured = true → s.fb.wf = true →
    (mr.toInt < 0 ∨ (s.rows : Int) ≤ mr.toInt → exec (.shiftRow mr) s = .next (ignored s)) ∧
    (∀ m : Nat, mr.toInt = m → m < s.rows →
      ∃ t, exec (.shiftRow mr) s = .next t ∧ OnlyFbAndTrace s t ∧ t.response = some (okResponse s) ∧
        t.line = s.line ∧ t.trace = s.trace ++ [.delay s.scrollDelay] ∧
        (∀ mc r, mc < s.cols → r < 8 → t.fb.read (8 * (mc + m * s.cols) + r) =
          (s.fb.read (8 * (mc + m * s.cols) + r) >>> 1) |||
            (if mc + 1 < s.cols ∧ (s.fb.read (8 * (mc + 1 + m * s.cols) + r)).getLsbD 0 = true
              then 0x80 else 0x00)) ∧
        (∀ a, a < 8 * (m * s.cols) ∨ 8 * ((m + 1) * s.cols) ≤ a → t.fb.read a = s.fb.read a) ∧
        (∀ x y, inRange s.rows s.cols x y = true → y / 8 = m →
          readPixel t x y = if x ≤ 8 * s.cols - 2 then readPixel s (x + 1) y else false))

/-- SCROLLGLYPH (R163): a module-row out of range, or a wrong payload length, is ignored; else one column
step per column, the 5×7 font with one blank column more: per step a DELAY, then the eight packets of
the FrameBuffer as the step leaves it; the pixels of the module-row travel left and the columns
follow from the right; every other byte is unchanged. -/
def Obligations.ScrollGlyphScrolls : Prop :=
  ∀ (s : State) (mr n : Slot) (pl : List Byte), s.configured = true → s.fb.wf = true → 1 ≤ s.cols →
    (pl.length ≠ n.toNat ∨ mr.toInt < 0 ∨ (s.rows : Int) ≤ mr.toInt →
      exec (.scrollGlyph mr n pl) s = .next (ignored s)) ∧
    (∀ m : Nat, pl.length = n.toNat → mr.toInt = m → m < s.rows →
      ∃ (t : State) (fbs : List Memory), exec (.scrollGlyph mr n pl) s = .next t ∧ OnlyFbAndTrace s t ∧
        t.response = some (okResponse s) ∧
        fbs.length = (steppedColumns s pl).length ∧
        t.fb = (fbs.getLast?).getD s.fb ∧
        t.trace = s.trace ++ fbs.flatMap (fun fb =>
          .delay s.scrollDelay :: refreshPackets s.deviceCount fb) ∧
        (fbs = [] → t.line = s.line) ∧ (fbs ≠ [] → t.line.cs = true ∧ DigitsShow s t t.fb) ∧
        ∀ j (hj : j < fbs.length),
          (∀ x y, inRange s.rows s.cols x y = true → pixel s.rows s.cols fbs[j] x y =
            if y / 8 = m then scrolledPixel s (steppedColumns s pl) (j + 1) x y
            else readPixel s x y) ∧
          (∀ a, a < 8 * (m * s.cols) ∨ 8 * ((m + 1) * s.cols) ≤ a →
            Memory.read fbs[j] a = s.fb.read a))

/-- SCROLLCHAR (R164): rejected before the fetch; else the GLYPH event, then SCROLLGLYPH of the glyph's
columns. -/
def Obligations.ScrollCharFetchesAndScrolls : Prop :=
  ∀ (s : State) (c mr : Slot), s.configured = true →
    (c.toNat > 255 ∨ mr.toInt < 0 ∨ (s.rows : Int) ≤ mr.toInt →
      exec (.scrollChar c mr) s = .next (ignored s)) ∧
    (c.toNat ≤ 255 → 0 ≤ mr.toInt → mr.toInt < s.rows →
      let glyph := glyphSource s.params (BitVec.ofNat 8 c.toNat) s.font
      ∃ t, exec (.scrollChar c mr) s = .next t ∧
        exec (.scrollGlyph mr (BitVec.ofNat 16 glyph.length) glyph)
          (emit s [.glyph (BitVec.ofNat 8 c.toNat) s.font]) = .next t ∧
        glyph.length = fontCols s.font)

/-! ### Text -/

/-- DRAWCHAR (R177): a code above 255 is ignored; else one GLYPH event, every pixel of the bounding box
written on or off, every other pixel and everything else unchanged. -/
def Obligations.DrawCharPlacesTheGlyph : Prop :=
  ∀ (s : State) (c x y : Slot), s.configured = true → s.fb.wf = true →
    (c.toNat > 255 → exec (.drawChar c x y) s = .next (ignored s)) ∧
    (c.toNat ≤ 255 →
      ∃ t, exec (.drawChar c x y) s = .next t ∧ OnlyFbAndTrace s t ∧ t.response = some (okResponse s) ∧
        t.line = s.line ∧ t.trace = s.trace ++ [.glyph (BitVec.ofNat 8 c.toNat) s.font] ∧
        (∀ px py, inRange s.rows s.cols px py = true → readPixel t px py =
          if InBox x.toInt y.toInt (fontCols s.font) (fontRows s.font) px py then
            glyphPixel s (BitVec.ofNat 8 c.toNat) (px - x.toInt).toNat (py - y.toInt).toNat
          else readPixel s px py) ∧
        (∀ a, (∀ px py, inRange s.rows s.cols px py = true →
            InBox x.toInt y.toInt (fontCols s.font) (fontRows s.font) px py →
            a ≠ mapIndex s.cols px py) → t.fb.read a = s.fb.read a))

/-- DRAWWORD (R178): a wrong payload length is ignored; else the characters side by side, `cols(ST.font)`
apart, one GLYPH event each in order, every other pixel and everything else unchanged. -/
def Obligations.DrawWordPlacesTheWord : Prop :=
  ∀ (s : State) (count x y : Slot) (pl : List Byte), s.configured = true → s.fb.wf = true →
    (pl.length ≠ count.toNat → exec (.drawWord count x y pl) s = .next (ignored s)) ∧
    (pl.length = count.toNat →
      ∃ t, exec (.drawWord count x y pl) s = .next t ∧ OnlyFbAndTrace s t ∧
        t.response = some (okResponse s) ∧ t.line = s.line ∧
        t.trace = s.trace ++ pl.map (fun c => .glyph c s.font) ∧
        (∀ px py, inRange s.rows s.cols px py = true → readPixel t px py =
          if InBox x.toInt y.toInt (pl.length * fontCols s.font) (fontRows s.font) px py then
            glyphPixel s ((pl[((px - x.toInt) / fontCols s.font).toNat]?).getD 0)
              ((px - x.toInt) % fontCols s.font).toNat (py - y.toInt).toNat
          else readPixel s px py) ∧
        (∀ a, (∀ px py, inRange s.rows s.cols px py = true →
            InBox x.toInt y.toInt (pl.length * fontCols s.font) (fontRows s.font) px py →
            a ≠ mapIndex s.cols px py) → t.fb.read a = s.fb.read a))

/-! ### Wire pairs -/

/-- A wire pair run on its own (R70, R71, R72; log 7): nothing before construction; else one whole packet of it
for every device, which takes its register write. -/
def Obligations.WirePairRuns : Prop :=
  ∀ (s : State) (i : Instr) (p : Pair), wirePair i = some p →
    (s.configured = false → exec i s = .next s) ∧
    (s.configured = true →
      ∃ t, exec i s = .next t ∧ OnlyFbAndTrace s t ∧ t.fb = s.fb ∧ t.response = s.response ∧
        t.line.cs = true ∧ t.trace = s.trace ++ broadcastPacket s.deviceCount p.addr p.data ∧
        ∀ d a, t.chipReg d a = if d < s.deviceCount ∧ a = p.addr then p.data else s.chipReg d a)

/-- The wire pairs are what the commands send (R69, R72, R113, R190 to R192; log 7, and the default register map
of log 2 where a clause asks for it): each is BCAST of its address and data; the packet of REFRESHROW r is made
of the W.DIGIT r pair of every device, farthest first, and is one W.DIGIT r where all devices show the same
byte; SETINTENSITY and SETSHUTDOWN are their state update and one wire pair; CONSTRUCT is its state update, the
five wire pairs of bring-up in order, and CLRREFRESH. -/
def Obligations.WirePairsMakeThePacket : Prop :=
  (∀ (s : State) (i : Instr) (p : Pair), wirePair i = some p → s.configured = true →
    ∃ t, exec i s = .next t ∧
      exec (.bcast (p.addr.setWidth 16) (p.data.setWidth 16)) s = .next (ignored t)) ∧
  (∀ (s : State) (row : Slot), s.configured = true → row.toNat ≤ 7 →
    (∃ t, exec (.refreshRow row) s = .next t ∧ t.trace = s.trace ++ [.csLow] ++
      ((List.range s.deviceCount).reverse.flatMap fun d =>
        (wirePair (digitPair row.toNat (s.fb.read (8 * d + row.toNat)))).toList.flatMap fun p =>
          [.tx p.data, .tx p.addr]) ++ [.csHigh]) ∧
    (∀ b : Byte, (∀ d, d < s.deviceCount → s.fb.read (8 * d + row.toNat) = b) →
      ∃ t, exec (digitPair row.toNat b) s = .next t ∧ exec (.refreshRow row) s = .next (ignored t))) ∧
  (∀ (s : State) (v : Slot) (h : v.toNat < 16), s.configured = true → s.params.chip = Config.chip →
    ∃ t, exec (.wIntensity (BitVec.ofNat 4 v.toNat)) (s.setIntensity ⟨v.toNat, h⟩) = .next t ∧
      exec (.setIntensity v) s = .next (ignored t)) ∧
  (∀ (s : State) (b : Slot), s.configured = true → s.params.chip = Config.chip →
    ∃ t, exec (.wShutdown (decide (b.toNat = 0))) (s.setShutdown (decide (b.toNat ≠ 0))) = .next t ∧
      exec (.setShutdown b) s = .next (ignored t)) ∧
  (∀ (s : State) (rows cols : Slot), s.configured = false → s.params.chip = Config.chip →
    1 ≤ rows.toNat → 1 ≤ cols.toNat → rows.toNat * cols.toNat ≤ s.params.maxDevices →
    ∃ t, exec (.construct rows cols) s = .next t ∧
      runAll [.wDisplayTest, .wScanLimit, .wDecode,
        .wIntensity (BitVec.ofNat 4 s.params.initIntensity.val), .wShutdown true, .clrRefresh]
        (((configure s rows.toNat cols.toNat).setIntensity s.params.initIntensity).setShutdown false) =
          .next t)
end

