-- ==== Sys2Proof/Laws/Encoding.lean ====
section
/-! SUPPORT. The fields of a command word and of a pair word are the ones it was built from. -/

namespace Sys2Proof

section

variable (op : Byte) (a0 a1 a2 a3 a4 a5 a6 a7 : Slot)

@[simp] theorem opcode_commandWord : opcode (commandWord op a0 a1 a2 a3 a4 a5 a6 a7) = op := by
  ext i hi
  simp only [opcode, commandWord, BitVec.getElem_extractLsb', BitVec.getLsbD_append]
  simp [show ¬ (128 + i < 128) by omega, BitVec.getLsbD_eq_getElem hi]

/-- Bit `i` of slot `k` of a word, as a bit of the word. -/
theorem slot_bit (w : CommandWord) (k i : Nat) (hi : i < 16) :
    (slot w k)[i] = w.getLsbD (112 - 16 * k + i) := by
  simp [slot, BitVec.getElem_extractLsb']

@[simp] theorem slot0_commandWord : slot (commandWord op a0 a1 a2 a3 a4 a5 a6 a7) 0 = a0 := by
  ext i hi
  rw [slot_bit]
  simp only [commandWord, BitVec.getLsbD_append]
  simp [show 112 + i < 128 by omega, BitVec.getLsbD_eq_getElem hi]

@[simp] theorem slot1_commandWord : slot (commandWord op a0 a1 a2 a3 a4 a5 a6 a7) 1 = a1 := by
  ext i hi
  rw [slot_bit]
  simp only [commandWord, BitVec.getLsbD_append]
  simp [show 96 + i < 128 by omega, show 96 + i < 112 by omega, BitVec.getLsbD_eq_getElem hi]

@[simp] theorem slot2_commandWord : slot (commandWord op a0 a1 a2 a3 a4 a5 a6 a7) 2 = a2 := by
  ext i hi
  rw [slot_bit]
  simp only [commandWord, BitVec.getLsbD_append]
  simp [show 80 + i < 128 by omega, show 80 + i < 112 by omega, show 80 + i < 96 by omega,
    BitVec.getLsbD_eq_getElem hi]

@[simp] theorem slot3_commandWord : slot (commandWord op a0 a1 a2 a3 a4 a5 a6 a7) 3 = a3 := by
  ext i hi
  rw [slot_bit]
  simp only [commandWord, BitVec.getLsbD_append]
  simp [show 64 + i < 128 by omega, show 64 + i < 112 by omega, show 64 + i < 96 by omega,
    show 64 + i < 80 by omega, BitVec.getLsbD_eq_getElem hi]

@[simp] theorem slot4_commandWord : slot (commandWord op a0 a1 a2 a3 a4 a5 a6 a7) 4 = a4 := by
  ext i hi
  rw [slot_bit]
  simp only [commandWord, BitVec.getLsbD_append]
  simp [show 48 + i < 128 by omega, show 48 + i < 112 by omega, show 48 + i < 96 by omega,
    show 48 + i < 80 by omega, show 48 + i < 64 by omega, BitVec.getLsbD_eq_getElem hi]

@[simp] theorem slot5_commandWord : slot (commandWord op a0 a1 a2 a3 a4 a5 a6 a7) 5 = a5 := by
  ext i hi
  rw [slot_bit]
  simp only [commandWord, BitVec.getLsbD_append]
  simp [show 32 + i < 128 by omega, show 32 + i < 112 by omega, show 32 + i < 96 by omega,
    show 32 + i < 80 by omega, show 32 + i < 64 by omega, show 32 + i < 48 by omega,
    BitVec.getLsbD_eq_getElem hi]

@[simp] theorem slot6_commandWord : slot (commandWord op a0 a1 a2 a3 a4 a5 a6 a7) 6 = a6 := by
  ext i hi
  rw [slot_bit]
  simp only [commandWord, BitVec.getLsbD_append]
  simp [show 16 + i < 128 by omega, show 16 + i < 112 by omega, show 16 + i < 96 by omega,
    show 16 + i < 80 by omega, show 16 + i < 64 by omega, show 16 + i < 48 by omega,
    show 16 + i < 32 by omega, BitVec.getLsbD_eq_getElem hi]

@[simp] theorem slot7_commandWord : slot (commandWord op a0 a1 a2 a3 a4 a5 a6 a7) 7 = a7 := by
  ext i hi
  rw [slot_bit]
  simp only [commandWord, BitVec.getLsbD_append]
  simp [hi, show i < 128 by omega, show i < 112 by omega, show i < 96 by omega,
    show i < 80 by omega, show i < 64 by omega, show i < 48 by omega,
    show i < 32 by omega]

end

@[simp] theorem pairData_pairWord (d a : Byte) : pairData (pairWord d a) = d := by
  ext i hi
  simp only [pairData, pairWord, BitVec.getElem_extractLsb', BitVec.getLsbD_append]
  simp [BitVec.getLsbD_eq_getElem hi]

@[simp] theorem pairAddr_pairWord (d a : Byte) : pairAddr (pairWord d a) = a := by
  ext i hi
  simp only [pairAddr, pairWord, BitVec.getElem_extractLsb', BitVec.getLsbD_append]
  simp [hi]

/-- A word matches a command row (mask 0xFF in bits 135:128) iff its opcode is the row's. -/
theorem opcode_of_toNat (w : CommandWord) : (opcode w).toNat = w.toNat / 2 ^ 128 := by
  have h : w.toNat < 2 ^ 136 := w.isLt
  have h2 : w.toNat / 2 ^ 128 < 2 ^ 8 := by
    apply Nat.div_lt_of_lt_mul
    omega
  simp only [opcode, BitVec.extractLsb'_toNat, Nat.shiftRight_eq_div_pow]
  exact Nat.mod_eq_of_lt h2

end Sys2Proof
end

