-- ==== Sys2Proof/Laws/Memory.lean ====
section
/-! SUPPORT. What the two byte stores do: reading after writing, and that every operation keeps the
canonical form and the bound. -/

namespace Sys2Proof.Machine

namespace Memory

theorem read_of_lt {lo a : Nat} {m : Memory} (h : wfFrom lo m = true) (ha : a < lo) :
    read m a = 0#8 := by
  induction m generalizing lo with
  | nil => rfl
  | cons c rest ih =>
    obtain ⟨k, v⟩ := c
    simp only [wfFrom, Bool.and_eq_true, decide_eq_true_eq] at h
    have : k ≠ a := by omega
    simp [read, this, ih h.2 (by omega)]

theorem read_write_ne (m : Memory) {a b : Nat} (v : Byte) (h : a ≠ b) :
    read (write m a v) b = read m b := by
  induction m with
  | nil => by_cases hv : v = 0#8 <;> simp [write, read, hv, h]
  | cons c rest ih =>
    obtain ⟨k, w⟩ := c
    simp only [write]
    by_cases h1 : a < k
    · by_cases hv : v = 0#8 <;> simp [h1, hv, read, h]
    · by_cases h2 : a = k
      · subst h2
        by_cases hv : v = 0#8 <;> simp [hv, read, h]
      · simp [h1, h2, read, ih]

theorem read_write_same {lo : Nat} {m : Memory} (h : wfFrom lo m = true) (a : Nat) (v : Byte) :
    read (write m a v) a = v := by
  induction m generalizing lo with
  | nil => by_cases hv : v = 0#8 <;> simp [write, read, hv]
  | cons c rest ih =>
    obtain ⟨k, w⟩ := c
    simp only [wfFrom, Bool.and_eq_true, decide_eq_true_eq] at h
    simp only [write]
    by_cases h1 : a < k
    · by_cases hv : v = 0#8
      · have : k ≠ a := by omega
        simp [h1, hv, read, this, read_of_lt h.2 (by omega : a < k + 1)]
      · simp [h1, hv, read]
    · by_cases h2 : a = k
      · subst h2
        by_cases hv : v = 0#8
        · simp [hv, read_of_lt h.2 (Nat.lt_succ_self a)]
        · simp [hv, read]
      · have : k ≠ a := fun e => h2 e.symm
        simp [h1, h2, read, this, ih h.2]

theorem read_write {lo : Nat} {m : Memory} (h : wfFrom lo m = true) (a b : Nat) (v : Byte) :
    read (write m a v) b = if a = b then v else read m b := by
  by_cases e : a = b
  · subst e; simp [read_write_same h]
  · simp [e, read_write_ne m v e]

theorem write_wfFrom {lo a : Nat} {m : Memory} (h : wfFrom lo m = true) (ha : lo ≤ a) (v : Byte) :
    wfFrom lo (write m a v) = true := by
  induction m generalizing lo with
  | nil => by_cases hv : v = 0#8 <;> simp [write, wfFrom, hv, ha]
  | cons c rest ih =>
    obtain ⟨k, w⟩ := c
    have h' := h
    simp only [wfFrom, Bool.and_eq_true, decide_eq_true_eq] at h
    simp only [write]
    by_cases h1 : a < k
    · by_cases hv : v = 0#8
      · simp [h1, hv, h']
      · simp [h1, hv, wfFrom, ha, h, Nat.succ_le_of_lt h1]
    · by_cases h2 : a = k
      · subst h2
        by_cases hv : v = 0#8
        · simp only [lt_self_iff_false, if_false, if_true, hv]
          have mono : ∀ {lo' : Nat} (m' : Memory), lo' ≤ a + 1 → wfFrom (a + 1) m' = true →
              wfFrom lo' m' = true := by
            intro lo' m' hle hm
            cases m' with
            | nil => rfl
            | cons c' r' =>
              obtain ⟨k', v'⟩ := c'
              simp only [wfFrom, Bool.and_eq_true, decide_eq_true_eq] at hm ⊢
              exact ⟨⟨by omega, hm.1.2⟩, hm.2⟩
          exact mono rest (by omega) h.2
        · simp [hv, wfFrom, ha, h]
      · have hk : k + 1 ≤ a := by omega
        simp [h1, h2, wfFrom, h, ih h.2 hk]

theorem write_wf {m : Memory} (h : m.wf = true) (a : Nat) (v : Byte) : (m.write a v).wf = true :=
  write_wfFrom h (Nat.zero_le a) v

theorem write_below {n : Nat} {m : Memory} (h : below n m = true) {a : Nat} (ha : a < n) (v : Byte) :
    below n (write m a v) = true := by
  induction m with
  | nil => by_cases hv : v = 0#8 <;> simp [write, below, hv, ha]
  | cons c rest ih =>
    obtain ⟨k, w⟩ := c
    simp only [below, Bool.and_eq_true, decide_eq_true_eq] at h
    simp only [write]
    split_ifs <;> simp_all [below]

theorem read_of_below {n : Nat} {m : Memory} (h : below n m = true) {a : Nat} (ha : n ≤ a) :
    read m a = 0#8 := by
  induction m with
  | nil => rfl
  | cons c rest ih =>
    obtain ⟨k, w⟩ := c
    simp only [below, Bool.and_eq_true, decide_eq_true_eq] at h
    have : k ≠ a := by omega
    simp [read, this, ih h.2]

/-- Equal reads make equal canonical memories. -/
theorem ext_of_read {lo : Nat} {m m' : Memory} (h : wfFrom lo m = true) (h' : wfFrom lo m' = true)
    (e : ∀ a, read m a = read m' a) : m = m' := by
  induction m generalizing lo m' with
  | nil =>
    cases m' with
    | nil => rfl
    | cons c r =>
      obtain ⟨k, v⟩ := c
      simp only [wfFrom, Bool.and_eq_true, decide_eq_true_eq] at h'
      have := e k
      simp [read] at this
      exact absurd this.symm h'.1.2
  | cons c rest ih =>
    obtain ⟨k, v⟩ := c
    have hh := h
    simp only [wfFrom, Bool.and_eq_true, decide_eq_true_eq] at h
    cases m' with
    | nil =>
      have := e k
      simp [read] at this
      exact absurd this h.1.2
    | cons c' r =>
      obtain ⟨k', v'⟩ := c'
      have hh' := h'
      simp only [wfFrom, Bool.and_eq_true, decide_eq_true_eq] at h'
      have hk : k = k' := by
        rcases Nat.lt_trichotomy k k' with hlt | heq | hgt
        · have := e k
          have hne : k' ≠ k := by omega
          simp only [read, if_true, hne, if_false] at this
          rw [read_of_lt h'.2 (by omega)] at this
          exact absurd this h.1.2
        · exact heq
        · have := e k'
          have hne : k ≠ k' := by omega
          simp only [read, if_true, hne, if_false] at this
          rw [read_of_lt h.2 (by omega)] at this
          exact absurd this.symm h'.1.2
      subst hk
      have hv : v = v' := by simpa [read] using e k
      subst hv
      have : rest = r := by
        refine ih h.2 h'.2 fun a => ?_
        by_cases hka : k = a
        · subst hka
          rw [read_of_lt h.2 (Nat.lt_succ_self k), read_of_lt h'.2 (Nat.lt_succ_self k)]
        · simpa [read, hka] using e a
      rw [this]

end Memory

namespace Chain

theorem find?_insert (c : Chain) (a b : Nat) (v : Byte) :
    find? (insert c a v) b = if a = b then some v else find? c b := by
  induction c with
  | nil => by_cases h : a = b <;> simp [insert, find?, h]
  | cons x rest ih =>
    obtain ⟨k, w⟩ := x
    simp only [insert]
    by_cases h1 : a < k
    · rw [if_pos h1]
      by_cases h : a = b <;> simp [find?, h]
    · by_cases h2 : a = k
      · subst h2
        by_cases h : a = b <;> simp [find?, h]
      · by_cases h : a = b
        · subst h
          have : k ≠ a := fun e => h2 e.symm
          simp [h1, h2, find?, ih, this]
        · simp [h1, h2, find?, ih, h]

theorem insert_wfFrom {lo a : Nat} {c : Chain} (h : wfFrom lo c = true) (ha : lo ≤ a) (v : Byte) :
    wfFrom lo (insert c a v) = true := by
  induction c generalizing lo with
  | nil => simp [insert, wfFrom, ha]
  | cons x rest ih =>
    obtain ⟨k, w⟩ := x
    simp only [wfFrom, Bool.and_eq_true, decide_eq_true_eq] at h
    simp only [insert]
    by_cases h1 : a < k
    · simp [h1, wfFrom, ha, h, Nat.succ_le_of_lt h1]
    · by_cases h2 : a = k
      · subst h2
        simp [wfFrom, ha, h]
      · have hk : k + 1 ≤ a := by omega
        simp [h1, h2, wfFrom, h, ih h.2 hk]

theorem insert_below {n a : Nat} {c : Chain} (h : below n c = true) (ha : a < 256 * n) (v : Byte) :
    below n (insert c a v) = true := by
  induction c with
  | nil => simp [insert, below, ha]
  | cons x rest ih =>
    obtain ⟨k, w⟩ := x
    simp only [below, Bool.and_eq_true, decide_eq_true_eq] at h
    simp only [insert]
    split_ifs <;> simp_all [below]

theorem chainKey_inj {d d' : Nat} {a a' : Byte} (h : chainKey d a = chainKey d' a') :
    d = d' ∧ a = a' := by
  have h1 := a.isLt
  have h2 := a'.isLt
  simp only [chainKey] at h
  constructor
  · omega
  · exact BitVec.eq_of_toNat_eq (by omega)

theorem chainKey_lt {d n : Nat} (h : d < n) (a : Byte) : chainKey d a < 256 * n := by
  have := a.isLt
  simp only [chainKey]
  omega

/-- The register write of a device changes that register alone. -/
theorem written?_write (c : Chain) (d d' : Nat) (a a' data : Byte) :
    (c.write d a data).written? d' a' =
      if d = d' ∧ a = a' then some data else c.written? d' a' := by
  simp only [write, written?, find?_insert]
  by_cases h : chainKey d a = chainKey d' a'
  · have := chainKey_inj h
    simp [this.1, this.2]
  · have : ¬ (d = d' ∧ a = a') := fun e => h (by rw [e.1, e.2])
    simp [h, this]

theorem write_wf {c : Chain} (h : c.wf = true) (d : Nat) (a data : Byte) :
    (c.write d a data).wf = true :=
  insert_wfFrom h (Nat.zero_le _) data

theorem write_below {n : Nat} {c : Chain} (h : c.below n = true) {d : Nat} (hd : d < n)
    (a data : Byte) : (c.write d a data).below n = true :=
  insert_below h (chainKey_lt hd a) data

end Chain

end Sys2Proof.Machine
end

