-- ==== Sys2Proof/Laws/State.lean ====
section
/-! SUPPORT. One lemma per field per update of the state, so that no later proof unfolds a record update. -/

namespace Sys2Proof.Machine

variable (s : State)

section setFb

variable (m : Memory)

@[simp] theorem setFb_params : (s.setFb m).params = s.params := rfl
@[simp] theorem setFb_configured : (s.setFb m).configured = s.configured := rfl
@[simp] theorem setFb_cfgErr : (s.setFb m).cfgErr = s.cfgErr := rfl
@[simp] theorem setFb_rows : (s.setFb m).rows = s.rows := rfl
@[simp] theorem setFb_cols : (s.setFb m).cols = s.cols := rfl
@[simp] theorem setFb_fb : (s.setFb m).fb = m := rfl
@[simp] theorem setFb_font : (s.setFb m).font = s.font := rfl
@[simp] theorem setFb_scrollDelay : (s.setFb m).scrollDelay = s.scrollDelay := rfl
@[simp] theorem setFb_intensity : (s.setFb m).intensity = s.intensity := rfl
@[simp] theorem setFb_shutdown : (s.setFb m).shutdown = s.shutdown := rfl
@[simp] theorem setFb_line : (s.setFb m).line = s.line := rfl
@[simp] theorem setFb_trace : (s.setFb m).trace = s.trace := rfl
@[simp] theorem setFb_response : (s.setFb m).response = s.response := rfl
@[simp] theorem setFb_port : (s.setFb m).port = s.port := rfl
@[simp] theorem setFb_freeCount : (s.setFb m).freeCount = s.freeCount := rfl
@[simp] theorem setFb_deviceCount : (s.setFb m).deviceCount = s.deviceCount := rfl
@[simp] theorem setFb_fbLen : (s.setFb m).fbLen = s.fbLen := rfl
@[simp] theorem setFb_packetBytes : (s.setFb m).packetBytes = s.packetBytes := rfl

end setFb

section setFont

variable (f : Font)

@[simp] theorem setFont_params : (s.setFont f).params = s.params := rfl
@[simp] theorem setFont_configured : (s.setFont f).configured = s.configured := rfl
@[simp] theorem setFont_cfgErr : (s.setFont f).cfgErr = s.cfgErr := rfl
@[simp] theorem setFont_rows : (s.setFont f).rows = s.rows := rfl
@[simp] theorem setFont_cols : (s.setFont f).cols = s.cols := rfl
@[simp] theorem setFont_fb : (s.setFont f).fb = s.fb := rfl
@[simp] theorem setFont_font : (s.setFont f).font = f := rfl
@[simp] theorem setFont_scrollDelay : (s.setFont f).scrollDelay = s.scrollDelay := rfl
@[simp] theorem setFont_intensity : (s.setFont f).intensity = s.intensity := rfl
@[simp] theorem setFont_shutdown : (s.setFont f).shutdown = s.shutdown := rfl
@[simp] theorem setFont_line : (s.setFont f).line = s.line := rfl
@[simp] theorem setFont_trace : (s.setFont f).trace = s.trace := rfl
@[simp] theorem setFont_response : (s.setFont f).response = s.response := rfl
@[simp] theorem setFont_port : (s.setFont f).port = s.port := rfl
@[simp] theorem setFont_freeCount : (s.setFont f).freeCount = s.freeCount := rfl
@[simp] theorem setFont_deviceCount : (s.setFont f).deviceCount = s.deviceCount := rfl
@[simp] theorem setFont_fbLen : (s.setFont f).fbLen = s.fbLen := rfl
@[simp] theorem setFont_packetBytes : (s.setFont f).packetBytes = s.packetBytes := rfl

end setFont

section setScrollDelay

variable (t : BitVec 16)

@[simp] theorem setScrollDelay_params : (s.setScrollDelay t).params = s.params := rfl
@[simp] theorem setScrollDelay_configured : (s.setScrollDelay t).configured = s.configured := rfl
@[simp] theorem setScrollDelay_cfgErr : (s.setScrollDelay t).cfgErr = s.cfgErr := rfl
@[simp] theorem setScrollDelay_rows : (s.setScrollDelay t).rows = s.rows := rfl
@[simp] theorem setScrollDelay_cols : (s.setScrollDelay t).cols = s.cols := rfl
@[simp] theorem setScrollDelay_fb : (s.setScrollDelay t).fb = s.fb := rfl
@[simp] theorem setScrollDelay_font : (s.setScrollDelay t).font = s.font := rfl
@[simp] theorem setScrollDelay_scrollDelay : (s.setScrollDelay t).scrollDelay = t := rfl
@[simp] theorem setScrollDelay_intensity : (s.setScrollDelay t).intensity = s.intensity := rfl
@[simp] theorem setScrollDelay_shutdown : (s.setScrollDelay t).shutdown = s.shutdown := rfl
@[simp] theorem setScrollDelay_line : (s.setScrollDelay t).line = s.line := rfl
@[simp] theorem setScrollDelay_trace : (s.setScrollDelay t).trace = s.trace := rfl
@[simp] theorem setScrollDelay_response : (s.setScrollDelay t).response = s.response := rfl
@[simp] theorem setScrollDelay_port : (s.setScrollDelay t).port = s.port := rfl
@[simp] theorem setScrollDelay_freeCount : (s.setScrollDelay t).freeCount = s.freeCount := rfl
@[simp] theorem setScrollDelay_deviceCount : (s.setScrollDelay t).deviceCount = s.deviceCount := rfl
@[simp] theorem setScrollDelay_fbLen : (s.setScrollDelay t).fbLen = s.fbLen := rfl
@[simp] theorem setScrollDelay_packetBytes : (s.setScrollDelay t).packetBytes = s.packetBytes := rfl

end setScrollDelay

section setIntensity

variable (v : Fin 16)

@[simp] theorem setIntensity_params : (s.setIntensity v).params = s.params := rfl
@[simp] theorem setIntensity_configured : (s.setIntensity v).configured = s.configured := rfl
@[simp] theorem setIntensity_cfgErr : (s.setIntensity v).cfgErr = s.cfgErr := rfl
@[simp] theorem setIntensity_rows : (s.setIntensity v).rows = s.rows := rfl
@[simp] theorem setIntensity_cols : (s.setIntensity v).cols = s.cols := rfl
@[simp] theorem setIntensity_fb : (s.setIntensity v).fb = s.fb := rfl
@[simp] theorem setIntensity_font : (s.setIntensity v).font = s.font := rfl
@[simp] theorem setIntensity_scrollDelay : (s.setIntensity v).scrollDelay = s.scrollDelay := rfl
@[simp] theorem setIntensity_intensity : (s.setIntensity v).intensity = v := rfl
@[simp] theorem setIntensity_shutdown : (s.setIntensity v).shutdown = s.shutdown := rfl
@[simp] theorem setIntensity_line : (s.setIntensity v).line = s.line := rfl
@[simp] theorem setIntensity_trace : (s.setIntensity v).trace = s.trace := rfl
@[simp] theorem setIntensity_response : (s.setIntensity v).response = s.response := rfl
@[simp] theorem setIntensity_port : (s.setIntensity v).port = s.port := rfl
@[simp] theorem setIntensity_freeCount : (s.setIntensity v).freeCount = s.freeCount := rfl
@[simp] theorem setIntensity_deviceCount : (s.setIntensity v).deviceCount = s.deviceCount := rfl
@[simp] theorem setIntensity_fbLen : (s.setIntensity v).fbLen = s.fbLen := rfl
@[simp] theorem setIntensity_packetBytes : (s.setIntensity v).packetBytes = s.packetBytes := rfl

end setIntensity

section setShutdown

variable (b : Bool)

@[simp] theorem setShutdown_params : (s.setShutdown b).params = s.params := rfl
@[simp] theorem setShutdown_configured : (s.setShutdown b).configured = s.configured := rfl
@[simp] theorem setShutdown_cfgErr : (s.setShutdown b).cfgErr = s.cfgErr := rfl
@[simp] theorem setShutdown_rows : (s.setShutdown b).rows = s.rows := rfl
@[simp] theorem setShutdown_cols : (s.setShutdown b).cols = s.cols := rfl
@[simp] theorem setShutdown_fb : (s.setShutdown b).fb = s.fb := rfl
@[simp] theorem setShutdown_font : (s.setShutdown b).font = s.font := rfl
@[simp] theorem setShutdown_scrollDelay : (s.setShutdown b).scrollDelay = s.scrollDelay := rfl
@[simp] theorem setShutdown_intensity : (s.setShutdown b).intensity = s.intensity := rfl
@[simp] theorem setShutdown_shutdown : (s.setShutdown b).shutdown = b := rfl
@[simp] theorem setShutdown_line : (s.setShutdown b).line = s.line := rfl
@[simp] theorem setShutdown_trace : (s.setShutdown b).trace = s.trace := rfl
@[simp] theorem setShutdown_response : (s.setShutdown b).response = s.response := rfl
@[simp] theorem setShutdown_port : (s.setShutdown b).port = s.port := rfl
@[simp] theorem setShutdown_freeCount : (s.setShutdown b).freeCount = s.freeCount := rfl
@[simp] theorem setShutdown_deviceCount : (s.setShutdown b).deviceCount = s.deviceCount := rfl
@[simp] theorem setShutdown_fbLen : (s.setShutdown b).fbLen = s.fbLen := rfl
@[simp] theorem setShutdown_packetBytes : (s.setShutdown b).packetBytes = s.packetBytes := rfl

end setShutdown

section setCfgErr

variable (b : Bool)

@[simp] theorem setCfgErr_params : (s.setCfgErr b).params = s.params := rfl
@[simp] theorem setCfgErr_configured : (s.setCfgErr b).configured = s.configured := rfl
@[simp] theorem setCfgErr_cfgErr : (s.setCfgErr b).cfgErr = b := rfl
@[simp] theorem setCfgErr_rows : (s.setCfgErr b).rows = s.rows := rfl
@[simp] theorem setCfgErr_cols : (s.setCfgErr b).cols = s.cols := rfl
@[simp] theorem setCfgErr_fb : (s.setCfgErr b).fb = s.fb := rfl
@[simp] theorem setCfgErr_font : (s.setCfgErr b).font = s.font := rfl
@[simp] theorem setCfgErr_scrollDelay : (s.setCfgErr b).scrollDelay = s.scrollDelay := rfl
@[simp] theorem setCfgErr_intensity : (s.setCfgErr b).intensity = s.intensity := rfl
@[simp] theorem setCfgErr_shutdown : (s.setCfgErr b).shutdown = s.shutdown := rfl
@[simp] theorem setCfgErr_line : (s.setCfgErr b).line = s.line := rfl
@[simp] theorem setCfgErr_trace : (s.setCfgErr b).trace = s.trace := rfl
@[simp] theorem setCfgErr_response : (s.setCfgErr b).response = s.response := rfl
@[simp] theorem setCfgErr_port : (s.setCfgErr b).port = s.port := rfl
@[simp] theorem setCfgErr_freeCount : (s.setCfgErr b).freeCount = s.freeCount := rfl
@[simp] theorem setCfgErr_deviceCount : (s.setCfgErr b).deviceCount = s.deviceCount := rfl
@[simp] theorem setCfgErr_fbLen : (s.setCfgErr b).fbLen = s.fbLen := rfl
@[simp] theorem setCfgErr_packetBytes : (s.setCfgErr b).packetBytes = s.packetBytes := rfl

end setCfgErr

section setGrid

variable (r c : Nat)

@[simp] theorem setGrid_params : (s.setGrid r c).params = s.params := rfl
@[simp] theorem setGrid_configured : (s.setGrid r c).configured = true := rfl
@[simp] theorem setGrid_cfgErr : (s.setGrid r c).cfgErr = s.cfgErr := rfl
@[simp] theorem setGrid_rows : (s.setGrid r c).rows = r := rfl
@[simp] theorem setGrid_cols : (s.setGrid r c).cols = c := rfl
@[simp] theorem setGrid_fb : (s.setGrid r c).fb = s.fb := rfl
@[simp] theorem setGrid_font : (s.setGrid r c).font = s.font := rfl
@[simp] theorem setGrid_scrollDelay : (s.setGrid r c).scrollDelay = s.scrollDelay := rfl
@[simp] theorem setGrid_intensity : (s.setGrid r c).intensity = s.intensity := rfl
@[simp] theorem setGrid_shutdown : (s.setGrid r c).shutdown = s.shutdown := rfl
@[simp] theorem setGrid_line : (s.setGrid r c).line = s.line := rfl
@[simp] theorem setGrid_trace : (s.setGrid r c).trace = s.trace := rfl
@[simp] theorem setGrid_response : (s.setGrid r c).response = s.response := rfl
@[simp] theorem setGrid_port : (s.setGrid r c).port = s.port := rfl
@[simp] theorem setGrid_freeCount : (s.setGrid r c).freeCount = s.freeCount := rfl
@[simp] theorem setGrid_deviceCount : (s.setGrid r c).deviceCount = r * c := rfl

end setGrid

section setResponse

variable (r : Response)

@[simp] theorem setResponse_params : (s.setResponse r).params = s.params := rfl
@[simp] theorem setResponse_configured : (s.setResponse r).configured = s.configured := rfl
@[simp] theorem setResponse_cfgErr : (s.setResponse r).cfgErr = s.cfgErr := rfl
@[simp] theorem setResponse_rows : (s.setResponse r).rows = s.rows := rfl
@[simp] theorem setResponse_cols : (s.setResponse r).cols = s.cols := rfl
@[simp] theorem setResponse_fb : (s.setResponse r).fb = s.fb := rfl
@[simp] theorem setResponse_font : (s.setResponse r).font = s.font := rfl
@[simp] theorem setResponse_scrollDelay : (s.setResponse r).scrollDelay = s.scrollDelay := rfl
@[simp] theorem setResponse_intensity : (s.setResponse r).intensity = s.intensity := rfl
@[simp] theorem setResponse_shutdown : (s.setResponse r).shutdown = s.shutdown := rfl
@[simp] theorem setResponse_line : (s.setResponse r).line = s.line := rfl
@[simp] theorem setResponse_trace : (s.setResponse r).trace = s.trace := rfl
@[simp] theorem setResponse_response : (s.setResponse r).response = some r := rfl
@[simp] theorem setResponse_port : (s.setResponse r).port = s.port := rfl
@[simp] theorem setResponse_freeCount : (s.setResponse r).freeCount = s.freeCount := rfl
@[simp] theorem setResponse_deviceCount : (s.setResponse r).deviceCount = s.deviceCount := rfl
@[simp] theorem setResponse_fbLen : (s.setResponse r).fbLen = s.fbLen := rfl
@[simp] theorem setResponse_packetBytes : (s.setResponse r).packetBytes = s.packetBytes := rfl

end setResponse

section setPort

variable (p : List Transfer)

@[simp] theorem setPort_params : (s.setPort p).params = s.params := rfl
@[simp] theorem setPort_configured : (s.setPort p).configured = s.configured := rfl
@[simp] theorem setPort_cfgErr : (s.setPort p).cfgErr = s.cfgErr := rfl
@[simp] theorem setPort_rows : (s.setPort p).rows = s.rows := rfl
@[simp] theorem setPort_cols : (s.setPort p).cols = s.cols := rfl
@[simp] theorem setPort_fb : (s.setPort p).fb = s.fb := rfl
@[simp] theorem setPort_font : (s.setPort p).font = s.font := rfl
@[simp] theorem setPort_scrollDelay : (s.setPort p).scrollDelay = s.scrollDelay := rfl
@[simp] theorem setPort_intensity : (s.setPort p).intensity = s.intensity := rfl
@[simp] theorem setPort_shutdown : (s.setPort p).shutdown = s.shutdown := rfl
@[simp] theorem setPort_line : (s.setPort p).line = s.line := rfl
@[simp] theorem setPort_trace : (s.setPort p).trace = s.trace := rfl
@[simp] theorem setPort_response : (s.setPort p).response = s.response := rfl
@[simp] theorem setPort_port : (s.setPort p).port = p := rfl
@[simp] theorem setPort_freeCount : (s.setPort p).freeCount = s.freeCount := rfl
@[simp] theorem setPort_deviceCount : (s.setPort p).deviceCount = s.deviceCount := rfl
@[simp] theorem setPort_fbLen : (s.setPort p).fbLen = s.fbLen := rfl
@[simp] theorem setPort_packetBytes : (s.setPort p).packetBytes = s.packetBytes := rfl

end setPort

section drawFree

@[simp] theorem drawFree_params : (s.drawFree).params = s.params := rfl
@[simp] theorem drawFree_configured : (s.drawFree).configured = s.configured := rfl
@[simp] theorem drawFree_cfgErr : (s.drawFree).cfgErr = s.cfgErr := rfl
@[simp] theorem drawFree_rows : (s.drawFree).rows = s.rows := rfl
@[simp] theorem drawFree_cols : (s.drawFree).cols = s.cols := rfl
@[simp] theorem drawFree_fb : (s.drawFree).fb = s.fb := rfl
@[simp] theorem drawFree_font : (s.drawFree).font = s.font := rfl
@[simp] theorem drawFree_scrollDelay : (s.drawFree).scrollDelay = s.scrollDelay := rfl
@[simp] theorem drawFree_intensity : (s.drawFree).intensity = s.intensity := rfl
@[simp] theorem drawFree_shutdown : (s.drawFree).shutdown = s.shutdown := rfl
@[simp] theorem drawFree_line : (s.drawFree).line = s.line := rfl
@[simp] theorem drawFree_trace : (s.drawFree).trace = s.trace := rfl
@[simp] theorem drawFree_response : (s.drawFree).response = s.response := rfl
@[simp] theorem drawFree_port : (s.drawFree).port = s.port := rfl
@[simp] theorem drawFree_freeCount : (s.drawFree).freeCount = s.freeCount + 1 := rfl
@[simp] theorem drawFree_deviceCount : (s.drawFree).deviceCount = s.deviceCount := rfl
@[simp] theorem drawFree_fbLen : (s.drawFree).fbLen = s.fbLen := rfl
@[simp] theorem drawFree_packetBytes : (s.drawFree).packetBytes = s.packetBytes := rfl

end drawFree

section emit

variable (es : List Event)

@[simp] theorem emit_params : (emit s es).params = s.params := rfl
@[simp] theorem emit_configured : (emit s es).configured = s.configured := rfl
@[simp] theorem emit_cfgErr : (emit s es).cfgErr = s.cfgErr := rfl
@[simp] theorem emit_rows : (emit s es).rows = s.rows := rfl
@[simp] theorem emit_cols : (emit s es).cols = s.cols := rfl
@[simp] theorem emit_fb : (emit s es).fb = s.fb := rfl
@[simp] theorem emit_font : (emit s es).font = s.font := rfl
@[simp] theorem emit_scrollDelay : (emit s es).scrollDelay = s.scrollDelay := rfl
@[simp] theorem emit_intensity : (emit s es).intensity = s.intensity := rfl
@[simp] theorem emit_shutdown : (emit s es).shutdown = s.shutdown := rfl
@[simp] theorem emit_line : (emit s es).line = es.foldl lineStep s.line := rfl
@[simp] theorem emit_trace : (emit s es).trace = s.trace ++ es := rfl
@[simp] theorem emit_response : (emit s es).response = s.response := rfl
@[simp] theorem emit_port : (emit s es).port = s.port := rfl
@[simp] theorem emit_freeCount : (emit s es).freeCount = s.freeCount := rfl
@[simp] theorem emit_deviceCount : (emit s es).deviceCount = s.deviceCount := rfl
@[simp] theorem emit_fbLen : (emit s es).fbLen = s.fbLen := rfl
@[simp] theorem emit_packetBytes : (emit s es).packetBytes = s.packetBytes := rfl

end emit

end Sys2Proof.Machine
end

