-- ==== Sys2Proof/Laws/Packets.lean ====
section
/-! SUPPORT. What events do to the trace and the line: `emit`, packets, the register writes at `CS_HIGH`,
refreshes as event lists, and the framing of a trace. -/

namespace Sys2Proof.Machine

@[simp] theorem emit_nil (s : State) : emit s [] = s := by simp [emit]

theorem emit_emit (s : State) (a b : List Event) : emit (emit s a) b = emit s (a ++ b) := by
  simp [emit, List.foldl_append]

/-- The bytes of the pairs of devices `n-1` down to `0`, in order of transmission. -/
def pairBytes (pair : Nat → Pair) : Nat → List Byte
  | 0 => []
  | d + 1 => (pair d).data :: (pair d).addr :: pairBytes pair d

theorem pairEvents_eq (pair : Nat → Pair) (n : Nat) :
    pairEvents pair n = (pairBytes pair n).map .tx := by
  induction n with
  | zero => rfl
  | succ d ih => simp [pairEvents, pairBytes, ih]

theorem pairBytes_length (pair : Nat → Pair) (n : Nat) : (pairBytes pair n).length = 2 * n := by
  induction n with
  | zero => rfl
  | succ d ih => simp [pairBytes, ih]; omega

theorem foldl_lineStep_tx (bs : List Byte) (l : Line) :
    (bs.map Event.tx).foldl lineStep l = { l with packet := l.packet.map (· ++ bs) } := by
  induction bs generalizing l with
  | nil => simp
  | cons b bs ih => cases h : l.packet <;> simp [ih, lineStep, h]

/-- The register writes of a packet, device 0 first. -/
def commit (c : Chain) (n : Nat) (pair : Nat → Pair) : Chain :=
  (List.range n).foldl (fun c d => c.write d (pair d).addr (pair d).data) c

theorem latch_append (c : Chain) (d : Nat) (xs : List Byte) (a b : Byte) (m : Nat)
    (h : xs.length = 2 * m) : latch c d (xs ++ [a, b]) = (latch c d xs).write (d + m) a b := by
  induction m generalizing c d xs with
  | zero =>
    have : xs = [] := List.length_eq_zero_iff.mp (by omega)
    simp [this, latch]
  | succ m ih =>
    match xs, h with
    | [x], h => simp at h; omega
    | x :: y :: rest, h =>
      simp only [List.length_cons] at h
      simp only [List.cons_append, latch]
      rw [ih _ _ rest (by omega)]
      congr 1; omega

theorem latch_pairBytes (c : Chain) (pair : Nat → Pair) (n : Nat) :
    latch c 0 (pairBytes pair n).reverse = commit c n pair := by
  induction n with
  | zero => rfl
  | succ n ih =>
    have h := latch_append c 0 (pairBytes pair n).reverse (pair n).addr (pair n).data n
      (by simp [pairBytes_length])
    simp only [Nat.zero_add, ih] at h
    simp only [pairBytes, List.reverse_cons, List.append_assoc,
      List.cons_append, List.nil_append, h, commit, List.range_succ, List.foldl_append,
      List.foldl_cons, List.foldl_nil]

/-- What a packet does to the line. -/
theorem foldl_lineStep_packet (n : Nat) (pair : Nat → Pair) (l : Line) :
    (packetEvents n pair).foldl lineStep l =
      { packet := none, chain := commit l.chain n pair } := by
  simp [packetEvents, lineStep, List.foldl_append, pairEvents_eq, foldl_lineStep_tx,
    latch_pairBytes]

/-- Everything `SendPacket` does. -/
theorem sendPacket_eq (s : State) (pair : Nat → Pair) :
    sendPacket s pair =
      { s with
        trace := s.trace ++ packetEvents s.deviceCount pair
        line := { packet := none, chain := commit s.line.chain s.deviceCount pair } } := by
  simp [sendPacket, emit, foldl_lineStep_packet]

/-- The registers after a commit: device `d`'s register named by its pair holds its pair's data. -/
theorem written?_commit (c : Chain) (n : Nat) (pair : Nat → Pair) (d : Nat) (a : Byte) :
    (commit c n pair).written? d a =
      if d < n ∧ (pair d).addr = a then some (pair d).data else c.written? d a := by
  induction n with
  | zero => simp [commit]
  | succ n ih =>
    have : commit c (n + 1) pair = (commit c n pair).write n (pair n).addr (pair n).data := by
      simp [commit, List.range_succ, List.foldl_append]
    rw [this, Chain.written?_write, ih]
    by_cases hd : n = d
    · subst hd
      by_cases ha : (pair n).addr = a <;> simp [ha]
    · have h2 : (d < n + 1 ∧ (pair d).addr = a) ↔ (d < n ∧ (pair d).addr = a) := by
        constructor <;> rintro ⟨h1, h2⟩ <;> exact ⟨by omega, h2⟩
      simp only [hd, false_and, if_false, h2]

theorem commit_wf {c : Chain} (h : c.wf = true) (n : Nat) (pair : Nat → Pair) :
    (commit c n pair).wf = true := by
  induction n with
  | zero => exact h
  | succ n ih =>
    simpa [commit, List.range_succ, List.foldl_append] using Chain.write_wf ih n _ _

theorem commit_below {c : Chain} {N : Nat} (h : c.below N = true) {n : Nat} (hn : n ≤ N)
    (pair : Nat → Pair) : (commit c n pair).below N = true := by
  induction n with
  | zero => exact h
  | succ n ih =>
    simpa [commit, List.range_succ, List.foldl_append] using
      Chain.write_below (ih (by omega)) (by omega : n < N) _ _

theorem latch_wf {c : Chain} (h : c.wf = true) (d : Nat) (bs : List Byte) :
    (latch c d bs).wf = true := by
  induction bs using List.twoStepInduction generalizing c d with
  | nil => exact h
  | singleton x => exact h
  | cons_cons x y rest ih _ => exact ih (Chain.write_wf h d x y) (d + 1)

theorem latch_below {c : Chain} {N : Nat} (h : c.below N = true) (d : Nat) (bs : List Byte)
    (hd : 2 * d + bs.length ≤ 2 * N) : (latch c d bs).below N = true := by
  induction bs using List.twoStepInduction generalizing c d with
  | nil => exact h
  | singleton x => exact h
  | cons_cons x y rest ih _ =>
    simp only [List.length_cons] at hd
    exact ih (Chain.write_below h (by omega) x y) (d + 1) (by omega)

/-- The events of a refresh: eight packets, pixel-rows 0 to 7 (R114). -/
def refreshEvents (n : Nat) (fb : Memory) : List Event :=
  (List.range 8).flatMap fun r => packetEvents n (rowPair fb r)

theorem foldl_sendRow (rs : List Nat) (s : State) :
    rs.foldl sendRow s =
      emit s (rs.flatMap fun r => packetEvents s.deviceCount (rowPair s.fb r)) := by
  induction rs generalizing s with
  | nil => simp
  | cons r rs ih => simp [ih, sendRow, sendPacket, emit_emit]

/-- Everything `Refresh` does. -/
theorem refreshAll_eq (s : State) :
    refreshAll s = emit s (refreshEvents s.deviceCount s.fb) := foldl_sendRow _ s

theorem framing_append (n : Nat) (a b : List Event) :
    framing n (a ++ b) = b.foldl (Framing.next n) (framing n a) := by
  simp [framing, List.foldl_append]

theorem foldl_framing_tx (n : Nat) (bs : List Byte) (k : Nat) (h : k + bs.length ≤ n) :
    (bs.map Event.tx).foldl (Framing.next n) (.inside k) = .inside (k + bs.length) := by
  induction bs generalizing k with
  | nil => rfl
  | cons b bs ih =>
    simp only [List.length_cons] at h
    have hk : k < n := by omega
    simp only [List.map_cons, List.foldl_cons, Framing.next, hk, if_true, List.length_cons]
    rw [ih (k + 1) (by omega)]
    congr 1; omega

/-- A packet keeps a trace well framed. -/
theorem foldl_framing_packet (n : Nat) (pair : Nat → Pair) :
    (packetEvents n pair).foldl (Framing.next (n * 2)) .idle = .idle := by
  simp only [packetEvents, List.foldl_cons, Framing.next, List.foldl_append, pairEvents_eq]
  rw [foldl_framing_tx _ _ _ (by simp [pairBytes_length]; omega)]
  simp [pairBytes_length]; omega

theorem foldl_framing_refresh (n : Nat) (fb : Memory) :
    (refreshEvents n fb).foldl (Framing.next (n * 2)) .idle = .idle := by
  simp [refreshEvents, List.range_succ, List.foldl_append, foldl_framing_packet]

end Sys2Proof.Machine
end

