-- ==== Sys2Proof/Laws/PerInstr.lean ====
section
/-! SUPPORT. The encoding of every instruction matches its row of spec/opcode_table.json: the row's length,
and the row's match under the row's mask; one lemma per constructor. -/

namespace Sys2Proof.Laws.TableRow

/-- A row of the opcode table: its length in bits, its match and its mask. -/
structure Row where
  bits : Nat
  value : Nat
  mask : Nat

/-- The row of each instruction, as spec/opcode_table.json gives it. -/
def row : Instr → Row
  | .construct .. => ⟨136, 0x0100000000000000000000000000000000, 0xFF00000000000000000000000000000000⟩
  | .setIntensity .. => ⟨136, 0x0200000000000000000000000000000000, 0xFF00000000000000000000000000000000⟩
  | .setShutdown .. => ⟨136, 0x0300000000000000000000000000000000, 0xFF00000000000000000000000000000000⟩
  | .setFont .. => ⟨136, 0x0400000000000000000000000000000000, 0xFF00000000000000000000000000000000⟩
  | .setScrollDelay .. => ⟨136, 0x0500000000000000000000000000000000, 0xFF00000000000000000000000000000000⟩
  | .mapAddr .. => ⟨136, 0x1000000000000000000000000000000000, 0xFF00000000000000000000000000000000⟩
  | .setLed .. => ⟨136, 0x1100000000000000000000000000000000, 0xFF00000000000000000000000000000000⟩
  | .getLed .. => ⟨136, 0x1200000000000000000000000000000000, 0xFF00000000000000000000000000000000⟩
  | .clearBuf => ⟨136, 0x1300000000000000000000000000000000, 0xFF00000000000000000000000000000000⟩
  | .bcast .. => ⟨136, 0x2000000000000000000000000000000000, 0xFF00000000000000000000000000000000⟩
  | .refreshRow .. => ⟨136, 0x2100000000000000000000000000000000, 0xFF00000000000000000000000000000000⟩
  | .refresh => ⟨136, 0x2200000000000000000000000000000000, 0xFF00000000000000000000000000000000⟩
  | .clrRefresh => ⟨136, 0x2300000000000000000000000000000000, 0xFF00000000000000000000000000000000⟩
  | .point .. => ⟨136, 0x3000000000000000000000000000000000, 0xFF00000000000000000000000000000000⟩
  | .drawLine .. => ⟨136, 0x3100000000000000000000000000000000, 0xFF00000000000000000000000000000000⟩
  | .drawTri .. => ⟨136, 0x3200000000000000000000000000000000, 0xFF00000000000000000000000000000000⟩
  | .drawQuad .. => ⟨136, 0x3300000000000000000000000000000000, 0xFF00000000000000000000000000000000⟩
  | .drawRect .. => ⟨136, 0x3400000000000000000000000000000000, 0xFF00000000000000000000000000000000⟩
  | .drawCircle .. => ⟨136, 0x3500000000000000000000000000000000, 0xFF00000000000000000000000000000000⟩
  | .drawEllipse .. => ⟨136, 0x3600000000000000000000000000000000, 0xFF00000000000000000000000000000000⟩
  | .shiftRow .. => ⟨136, 0x4000000000000000000000000000000000, 0xFF00000000000000000000000000000000⟩
  | .scrollGlyph .. => ⟨136, 0x4100000000000000000000000000000000, 0xFF00000000000000000000000000000000⟩
  | .scrollChar .. => ⟨136, 0x4200000000000000000000000000000000, 0xFF00000000000000000000000000000000⟩
  | .drawChar .. => ⟨136, 0x5000000000000000000000000000000000, 0xFF00000000000000000000000000000000⟩
  | .drawWord .. => ⟨136, 0x5100000000000000000000000000000000, 0xFF00000000000000000000000000000000⟩
  | .wDigit0 .. => ⟨16, 0x0008, 0x00FF⟩
  | .wDigit1 .. => ⟨16, 0x0007, 0x00FF⟩
  | .wDigit2 .. => ⟨16, 0x0006, 0x00FF⟩
  | .wDigit3 .. => ⟨16, 0x0005, 0x00FF⟩
  | .wDigit4 .. => ⟨16, 0x0004, 0x00FF⟩
  | .wDigit5 .. => ⟨16, 0x0003, 0x00FF⟩
  | .wDigit6 .. => ⟨16, 0x0002, 0x00FF⟩
  | .wDigit7 .. => ⟨16, 0x0001, 0x00FF⟩
  | .wDecode => ⟨16, 0x0009, 0xFFFF⟩
  | .wIntensity .. => ⟨16, 0x000A, 0xF0FF⟩
  | .wScanLimit => ⟨16, 0x070B, 0xFFFF⟩
  | .wShutdown .. => ⟨16, 0x000C, 0xFEFF⟩
  | .wDisplayTest => ⟨16, 0x000F, 0xFFFF⟩

/-- A transfer as a number of so many bits, numbered as the table numbers them. -/
def number : Transfer → Nat × Nat
  | .command w _ => (136, w.toNat)
  | .pair p => (16, p.toNat)

/-- The encoding of `i` has the length of its row and matches it. -/
def Statement (i : Instr) : Prop :=
  (number (encode i)).1 = (row i).bits ∧ (number (encode i)).2 &&& (row i).mask = (row i).value

theorem command_matches (op : Byte) (a0 a1 a2 a3 a4 a5 a6 a7 : Slot) :
    (commandWord op a0 a1 a2 a3 a4 a5 a6 a7).toNat &&& 0xFF00000000000000000000000000000000 =
      op.toNat <<< 128 := by
  have ho := opcode_of_toNat (commandWord op a0 a1 a2 a3 a4 a5 a6 a7)
  rw [opcode_commandWord] at ho
  rw [ho, show 0xFF00000000000000000000000000000000 = (2 ^ 8 - 1) <<< 128 by decide]
  have hop : (commandWord op a0 a1 a2 a3 a4 a5 a6 a7).toNat / 2 ^ 128 < 2 ^ 8 := ho ▸ op.isLt
  refine Nat.eq_of_testBit_eq fun i => ?_
  rw [Nat.testBit_and, Nat.testBit_shiftLeft, Nat.testBit_shiftLeft, Nat.testBit_two_pow_sub_one,
    Nat.testBit_div_two_pow]
  by_cases h : 128 ≤ i
  · by_cases h8 : i - 128 < 8
    · simp [h, h8]
    · have := Nat.testBit_lt_two_pow (Nat.lt_of_lt_of_le hop
        (Nat.pow_le_pow_right (by decide) (by omega : 8 ≤ i - 128)))
      rw [Nat.testBit_div_two_pow] at this
      simp [h8, this]
  · simp [h]

theorem pair_number (d a : Byte) : (pairWord d a).toNat = d.toNat * 256 + a.toNat := by
  have ha := a.isLt
  rw [pairWord, BitVec.toNat_append, Nat.shiftLeft_eq, Nat.mul_comm,
    ← Nat.two_pow_add_eq_or_of_lt (by simpa using ha)]

theorem pair_matches (d a : Byte) : (pairWord d a).toNat &&& 0x00FF = a.toNat := by
  have ha := a.isLt
  rw [pair_number, show (0x00FF : Nat) = 2 ^ 8 - 1 from rfl, Nat.and_two_pow_sub_one_eq_mod]
  omega

theorem construct (rows cols : Slot) : Statement (.construct rows cols) := ⟨rfl, command_matches _ _ _ _ _ _ _ _ _⟩
theorem setIntensity (v : Slot) : Statement (.setIntensity v) := ⟨rfl, command_matches _ _ _ _ _ _ _ _ _⟩
theorem setShutdown (b : Slot) : Statement (.setShutdown b) := ⟨rfl, command_matches _ _ _ _ _ _ _ _ _⟩
theorem setFont (f : Slot) : Statement (.setFont f) := ⟨rfl, command_matches _ _ _ _ _ _ _ _ _⟩
theorem setScrollDelay (t : Slot) : Statement (.setScrollDelay t) := ⟨rfl, command_matches _ _ _ _ _ _ _ _ _⟩
theorem mapAddr (x y : Slot) : Statement (.mapAddr x y) := ⟨rfl, command_matches _ _ _ _ _ _ _ _ _⟩
theorem setLed (x y on : Slot) : Statement (.setLed x y on) := ⟨rfl, command_matches _ _ _ _ _ _ _ _ _⟩
theorem getLed (x y : Slot) : Statement (.getLed x y) := ⟨rfl, command_matches _ _ _ _ _ _ _ _ _⟩
theorem clearBuf : Statement (.clearBuf) := ⟨rfl, command_matches _ _ _ _ _ _ _ _ _⟩
theorem bcast (addr val : Slot) : Statement (.bcast addr val) := ⟨rfl, command_matches _ _ _ _ _ _ _ _ _⟩
theorem refreshRow (row : Slot) : Statement (.refreshRow row) := ⟨rfl, command_matches _ _ _ _ _ _ _ _ _⟩
theorem refresh : Statement (.refresh) := ⟨rfl, command_matches _ _ _ _ _ _ _ _ _⟩
theorem clrRefresh : Statement (.clrRefresh) := ⟨rfl, command_matches _ _ _ _ _ _ _ _ _⟩
theorem point (x y : Slot) : Statement (.point x y) := ⟨rfl, command_matches _ _ _ _ _ _ _ _ _⟩
theorem drawLine (x1 y1 x2 y2 : Slot) : Statement (.drawLine x1 y1 x2 y2) := ⟨rfl, command_matches _ _ _ _ _ _ _ _ _⟩
theorem drawTri (x1 y1 x2 y2 x3 y3 : Slot) : Statement (.drawTri x1 y1 x2 y2 x3 y3) := ⟨rfl, command_matches _ _ _ _ _ _ _ _ _⟩
theorem drawQuad (x1 y1 x2 y2 x3 y3 x4 y4 : Slot) : Statement (.drawQuad x1 y1 x2 y2 x3 y3 x4 y4) := ⟨rfl, command_matches _ _ _ _ _ _ _ _ _⟩
theorem drawRect (x y w h : Slot) : Statement (.drawRect x y w h) := ⟨rfl, command_matches _ _ _ _ _ _ _ _ _⟩
theorem drawCircle (h k r : Slot) : Statement (.drawCircle h k r) := ⟨rfl, command_matches _ _ _ _ _ _ _ _ _⟩
theorem drawEllipse (h k a b : Slot) : Statement (.drawEllipse h k a b) := ⟨rfl, command_matches _ _ _ _ _ _ _ _ _⟩
theorem shiftRow (mr : Slot) : Statement (.shiftRow mr) := ⟨rfl, command_matches _ _ _ _ _ _ _ _ _⟩
theorem scrollGlyph (mr n : Slot) (payload : List Byte) : Statement (.scrollGlyph mr n payload) := ⟨rfl, command_matches _ _ _ _ _ _ _ _ _⟩
theorem scrollChar (c mr : Slot) : Statement (.scrollChar c mr) := ⟨rfl, command_matches _ _ _ _ _ _ _ _ _⟩
theorem drawChar (c x y : Slot) : Statement (.drawChar c x y) := ⟨rfl, command_matches _ _ _ _ _ _ _ _ _⟩
theorem drawWord (count x y : Slot) (payload : List Byte) : Statement (.drawWord count x y payload) := ⟨rfl, command_matches _ _ _ _ _ _ _ _ _⟩
theorem wDigit0 (d : Byte) : Statement (.wDigit0 d) := ⟨rfl, pair_matches d _⟩
theorem wDigit1 (d : Byte) : Statement (.wDigit1 d) := ⟨rfl, pair_matches d _⟩
theorem wDigit2 (d : Byte) : Statement (.wDigit2 d) := ⟨rfl, pair_matches d _⟩
theorem wDigit3 (d : Byte) : Statement (.wDigit3 d) := ⟨rfl, pair_matches d _⟩
theorem wDigit4 (d : Byte) : Statement (.wDigit4 d) := ⟨rfl, pair_matches d _⟩
theorem wDigit5 (d : Byte) : Statement (.wDigit5 d) := ⟨rfl, pair_matches d _⟩
theorem wDigit6 (d : Byte) : Statement (.wDigit6 d) := ⟨rfl, pair_matches d _⟩
theorem wDigit7 (d : Byte) : Statement (.wDigit7 d) := ⟨rfl, pair_matches d _⟩
theorem wDecode : Statement (.wDecode) := ⟨rfl, rfl⟩
theorem wIntensity (v : BitVec 4) : Statement (.wIntensity v) := by revert v; unfold Statement; decide
theorem wScanLimit : Statement (.wScanLimit) := ⟨rfl, rfl⟩
theorem wShutdown (n : Bool) : Statement (.wShutdown n) := by revert n; unfold Statement; decide
theorem wDisplayTest : Statement (.wDisplayTest) := ⟨rfl, rfl⟩

end Sys2Proof.Laws.TableRow
end

