-- ==== Sys2Proof/Laws/Pixels.lean ====
section
/-! SUPPORT. The grid: the mapper on its domain, and what writing pixels does to the FrameBuffer. -/

namespace Sys2Proof.Machine

variable {R C : Nat}

theorem inRange_iff {x y : Int} : inRange R C x y = true ↔
    0 ≤ x ∧ x < 8 * (C : Int) ∧ 0 ≤ y ∧ y < 8 * (R : Int) := by
  simp [inRange, and_assoc]

/-- The mapper on its domain, in natural numbers (R93). -/
theorem mapIndex_eq {x y : Int} (h : inRange R C x y = true) :
    mapIndex C x y = moduleIndex C (y.toNat / 8) (x.toNat / 8) (y.toNat % 8) := by
  obtain ⟨hx0, -, hy0, -⟩ := inRange_iff.mp h
  obtain ⟨X, rfl⟩ := Int.eq_ofNat_of_zero_le hx0
  obtain ⟨Y, rfl⟩ := Int.eq_ofNat_of_zero_le hy0
  simp only [mapIndex, moduleIndex, Int.toNat_natCast]
  have hY : (Y : Int) = 8 * ((Y / 8 : Nat) : Int) + ((Y % 8 : Nat) : Int) := by
    exact_mod_cast (Nat.div_add_mod Y 8).symm
  have e : (8 * ((X : Int) / 8 + (Y : Int) / 8 * ((C : Int) - 1)) + (Y : Int)) =
      ((8 * (X / 8 + Y / 8 * C) + Y % 8 : Nat) : Int) := by
    push_cast
    push_cast at hY
    linear_combination hY
  rw [e, Int.toNat_natCast]

theorem mapBit_eq {x : Int} (h : 0 ≤ x) : mapBit x = x.toNat % 8 := by
  obtain ⟨X, rfl⟩ := Int.eq_ofNat_of_zero_le h
  simp only [mapBit, Int.toNat_natCast]
  omega

theorem mapBit_lt (x : Int) : mapBit x < 8 := by
  simp only [mapBit]
  omega

theorem moduleIndex_lt {mr mc r : Nat} (hr : mr < R) (hc : mc < C) (h8 : r < 8) :
    moduleIndex C mr mc r < R * C * 8 := by
  have : (mr + 1) * C ≤ R * C := Nat.mul_le_mul_right C hr
  simp only [moduleIndex]
  rw [Nat.add_mul] at this
  omega

theorem moduleIndex_inj {mr mc r mr' mc' r' : Nat} (hc : mc < C) (hc' : mc' < C) (h8 : r < 8)
    (h8' : r' < 8) (h : moduleIndex C mr mc r = moduleIndex C mr' mc' r') :
    mr = mr' ∧ mc = mc' ∧ r = r' := by
  simp only [moduleIndex] at h
  have hr : r = r' := by omega
  have hs : mc + mr * C = mc' + mr' * C := by omega
  have hm : mc = mc' := by
    have h1 := congrArg (· % C) hs
    simpa [Nat.add_mul_mod_self_right, Nat.mod_eq_of_lt hc, Nat.mod_eq_of_lt hc'] using h1
  subst hm
  have : mr * C = mr' * C := by omega
  exact ⟨Nat.eq_of_mul_eq_mul_right (by omega) this, rfl, hr⟩

theorem mapIndex_lt {x y : Int} (h : inRange R C x y = true) : mapIndex C x y < R * C * 8 := by
  rw [mapIndex_eq h]
  obtain ⟨hx0, hx1, hy0, hy1⟩ := inRange_iff.mp h
  exact moduleIndex_lt (by omega) (by omega) (by omega)

/-- Two in-range pixels at one byte index and bit are the same pixel (R94 (b)). -/
theorem map_inj {x y x' y' : Int} (h : inRange R C x y = true) (h' : inRange R C x' y' = true)
    (hi : mapIndex C x y = mapIndex C x' y') (hb : mapBit x = mapBit x') : x = x' ∧ y = y' := by
  rw [mapIndex_eq h, mapIndex_eq h'] at hi
  rw [mapBit_eq (inRange_iff.mp h).1, mapBit_eq (inRange_iff.mp h').1] at hb
  obtain ⟨hx0, hx1, hy0, hy1⟩ := inRange_iff.mp h
  obtain ⟨hx0', hx1', hy0', hy1'⟩ := inRange_iff.mp h'
  obtain ⟨h1, h2, h3⟩ := moduleIndex_inj (by omega) (by omega) (by omega) (by omega) hi
  constructor <;> omega

theorem bit_withBit (v : Byte) {b c : Nat} (hb : b < 8) (hc : c < 8) (on : Bool) :
    bit (withBit v b on) c = if b = c then on else bit v c := by
  interval_cases b <;> interval_cases c <;> cases on <;>
    simp [bit, withBit]

theorem setPixel_wf {fb : Memory} (h : fb.wf = true) (d : Dot) : (setPixel R C fb d).wf = true := by
  unfold setPixel
  split_ifs
  · exact Memory.write_wf h _ _
  · exact h

theorem setPixel_below {fb : Memory} (h : fb.below (R * C * 8) = true) (d : Dot) :
    (setPixel R C fb d).below (R * C * 8) = true := by
  unfold setPixel
  split_ifs with hr
  · exact Memory.write_below h (mapIndex_lt hr) _
  · exact h

/-- What one pixel write does to every pixel (R100, R105). -/
theorem pixel_setPixel {fb : Memory} (h : fb.wf = true) (d : Dot) (x y : Int) :
    pixel R C (setPixel R C fb d) x y =
      if inRange R C x y ∧ d.1 = (x, y) then d.2 else pixel R C fb x y := by
  obtain ⟨⟨px, py⟩, on⟩ := d
  by_cases hxy : inRange R C x y = true
  · by_cases hp : inRange R C px py = true
    · simp only [pixel, setPixel, hxy, hp, if_true, true_and, Prod.mk.injEq]
      rw [Memory.read_write h]
      by_cases hi : mapIndex C px py = mapIndex C x y
      · rw [if_pos hi, bit_withBit _ (mapBit_lt px) (mapBit_lt x)]
        by_cases hb : mapBit px = mapBit x
        · have := map_inj hp hxy hi hb
          simp [this]
        · have : ¬ (px = x ∧ py = y) := fun e => hb (by rw [e.1])
          simp [hb, this, hi]
      · have : ¬ (px = x ∧ py = y) := fun e => hi (by rw [e.1, e.2])
        simp [hi, this]
    · have : ¬ (px = x ∧ py = y) := fun e => hp (by rw [e.1, e.2]; exact hxy)
      simp [setPixel, hp, this]
  · simp [pixel, hxy]

theorem foldl_setPixel_wf (ds : List Dot) {fb : Memory} (h : fb.wf = true) :
    (ds.foldl (setPixel R C) fb).wf = true := by
  induction ds generalizing fb with
  | nil => exact h
  | cons d ds ih => exact ih (setPixel_wf h d)

theorem foldl_setPixel_below (ds : List Dot) {fb : Memory} (h : fb.below (R * C * 8) = true) :
    (ds.foldl (setPixel R C) fb).below (R * C * 8) = true := by
  induction ds generalizing fb with
  | nil => exact h
  | cons d ds ih => exact ih (setPixel_below h d)

/-- Pixels switched on: the old pixels or the plotted ones (R139). -/
theorem pixel_foldl_on (ps : List (Int × Int)) {fb : Memory} (h : fb.wf = true) {x y : Int}
    (hxy : inRange R C x y = true) :
    pixel R C ((ps.map fun p => (p, true)).foldl (setPixel R C) fb) x y =
      (pixel R C fb x y || decide ((x, y) ∈ ps)) := by
  induction ps generalizing fb with
  | nil => simp
  | cons p ps ih =>
    simp only [List.map_cons, List.foldl_cons]
    rw [ih (setPixel_wf h _), pixel_setPixel h]
    by_cases hp : p = (x, y)
    · simp [hp, hxy]
    · have : ¬ (x, y) = p := fun e => hp e.symm
      simp [hp, this]

/-- Dots none of which is the pixel leave it alone. -/
theorem pixel_foldl_of_notMem (ds : List Dot) {fb : Memory} (h : fb.wf = true) (x y : Int)
    (hn : ∀ d ∈ ds, d.1 ≠ (x, y)) :
    pixel R C (ds.foldl (setPixel R C) fb) x y = pixel R C fb x y := by
  induction ds generalizing fb with
  | nil => rfl
  | cons d ds ih =>
    simp only [List.foldl_cons]
    rw [ih (setPixel_wf h d) fun e he => hn e (List.mem_cons_of_mem d he), pixel_setPixel h]
    simp [hn d List.mem_cons_self]

/-- Dots that give one pixel one value only, and give it at least once, set it to that value. -/
theorem pixel_foldl_of_mem (ds : List Dot) {fb : Memory} (h : fb.wf = true) {x y : Int} {v : Bool}
    (hxy : inRange R C x y = true) (hm : ((x, y), v) ∈ ds) (hu : ∀ d ∈ ds, d.1 = (x, y) → d.2 = v) :
    pixel R C (ds.foldl (setPixel R C) fb) x y = v := by
  induction ds generalizing fb with
  | nil => simp at hm
  | cons d ds ih =>
    simp only [List.foldl_cons]
    by_cases hin : ((x, y), v) ∈ ds
    · exact ih (setPixel_wf h d) hin fun e he => hu e (List.mem_cons_of_mem d he)
    · have hd : d = ((x, y), v) := by
        rcases List.mem_cons.mp hm with e | e
        · exact e.symm
        · exact absurd e hin
      rw [pixel_foldl_of_notMem ds (setPixel_wf h d), pixel_setPixel h]
      · simp [hd, hxy]
      · rintro ⟨p, w⟩ he heq
        have hw := hu _ (List.mem_cons_of_mem d he) heq
        simp only at heq hw
        subst heq hw
        exact hin he

theorem plot_wf {s : State} (h : s.fb.wf = true) (ps : List (Int × Int)) :
    (plot s ps).fb.wf = true := foldl_setPixel_wf _ h

/-- Everything `plot` does to the pixels. -/
theorem pixel_plot {s : State} (h : s.fb.wf = true) (ps : List (Int × Int)) {x y : Int}
    (hxy : inRange s.rows s.cols x y = true) :
    pixel s.rows s.cols (plot s ps).fb x y =
      (pixel s.rows s.cols s.fb x y || decide ((x, y) ∈ ps)) :=
  pixel_foldl_on ps h hxy

end Sys2Proof.Machine
end

