-- ==== Sys2Proof/Laws/Scroll.lean ====
section
/-! SUPPORT. What the two byte loops of the ScrollEngine do to one byte of the FrameBuffer, and that they
keep its canonical form and its bound. -/

namespace Sys2Proof.Machine

variable {C mr : Nat}

/-- A fold whose step keeps a property keeps it. -/
theorem foldl_keeps {α β : Type} {P : β → Prop} {f : β → α → β} (hf : ∀ b a, P b → P (f b a))
    (l : List α) {b : β} (hb : P b) : P (l.foldl f b) := by
  induction l generalizing b with
  | nil => exact hb
  | cons a l ih => exact ih (hf b a hb)

/-- The form of the above for a bounded range. -/
theorem foldl_range_keeps {β : Type} {P : β → Prop} {f : β → Nat → β} {n : Nat}
    (hf : ∀ b a, a < n → P b → P (f b a)) {b : β} (hb : P b) : P ((List.range n).foldl f b) := by
  induction n with
  | zero => exact hb
  | succ n ih =>
    rw [List.range_succ, List.foldl_append]
    exact hf _ n (Nat.lt_succ_self n) (ih fun b a ha => hf b a (Nat.lt_succ_of_lt ha))

theorem shiftByte_wf {fb : Memory} (h : fb.wf = true) (mc r : Nat) :
    (shiftByte C mr mc fb r).wf = true := by
  unfold shiftByte
  dsimp only
  split <;> simp [Memory.write_wf, h]

theorem shiftRowFb_wf {fb : Memory} (h : fb.wf = true) : (shiftRowFb C mr fb).wf = true :=
  foldl_keeps (P := fun fb : Memory => fb.wf = true)
    (fun _ mc hb => foldl_keeps (P := fun fb : Memory => fb.wf = true)
      (fun _ r hb => shiftByte_wf hb mc r) _ hb) _ h

theorem injectBit_wf {p : Params} {fb : Memory} (h : fb.wf = true) (g : Byte) (f : Font) (r : Nat) :
    (injectBit p C mr g f fb r).wf = true := by
  unfold injectBit
  dsimp only
  split
  · exact Memory.write_wf h _ _
  · exact h

theorem inject_wf {s : State} (h : s.fb.wf = true) (g : Byte) (f : Font) :
    (inject s mr g f).fb.wf = true :=
  foldl_keeps (P := fun fb : Memory => fb.wf = true) (fun _ r hb => injectBit_wf hb g f r) _ h

theorem moduleIndex_below {R mc r : Nat} (hr : mr < R) (hc : mc < C) (h8 : r < 8) :
    moduleIndex C mr mc r < R * C * 8 := by
  have : (mr + 1) * C ≤ R * C := Nat.mul_le_mul_right C hr
  simp only [moduleIndex]
  rw [Nat.add_mul] at this
  omega

theorem shiftRowFb_below {R : Nat} {fb : Memory} (h : fb.below (R * C * 8) = true) (hr : mr < R) :
    (shiftRowFb C mr fb).below (R * C * 8) = true := by
  refine foldl_range_keeps (P := fun fb : Memory => fb.below (R * C * 8) = true)
    (fun b mc hmc hb => foldl_range_keeps (P := fun fb : Memory => fb.below (R * C * 8) = true)
      (fun b r h8 hb => ?_) hb) h
  have hi := moduleIndex_below hr hmc h8
  unfold shiftByte
  dsimp only
  split
  · exact Memory.write_below (Memory.write_below hb (by omega) _) hi _
  · exact Memory.write_below hb hi _

theorem inject_below {s : State} {R : Nat} (h : s.fb.below (R * s.cols * 8) = true) (hr : mr < R)
    (hc : 1 ≤ s.cols) (g : Byte) (f : Font) :
    (inject s mr g f).fb.below (R * s.cols * 8) = true := by
  refine foldl_range_keeps (P := fun fb : Memory => fb.below (R * s.cols * 8) = true)
    (fun b r h8 hb => ?_) h
  have : fontRows f ≤ 8 := by cases f <;> decide
  unfold injectBit
  dsimp only
  split
  · exact Memory.write_below hb (moduleIndex_below hr (by omega) (by omega)) _
  · exact hb

/-- One byte after the loop body of R160. -/
theorem read_shiftByte {fb : Memory} (h : fb.wf = true) {mc r : Nat} (h8 : r < 8) (a : Nat) :
    (shiftByte C mr mc fb r).read a =
      if a / 8 = mc + mr * C ∧ a % 8 = r then fb.read a >>> 1
      else if a / 8 + 1 = mc + mr * C ∧ a % 8 = r ∧ mc ≥ 1 ∧ bit (fb.read (a + 8)) 0 = true then
        fb.read a ||| 0x80
      else fb.read a := by
  unfold shiftByte
  dsimp only
  have hi : ∀ a, moduleIndex C mr mc r = a ↔ a / 8 = mc + mr * C ∧ a % 8 = r := by
    intro a; simp only [moduleIndex]; omega
  by_cases hc : bit (fb.read (moduleIndex C mr mc r)) 0 = true ∧ mc ≥ 1
  · rw [if_pos hc, Memory.read_write (Memory.write_wf h _ _), Memory.read_write h,
      Memory.read_write h]
    have hne : moduleIndex C mr mc r - 8 ≠ moduleIndex C mr mc r := by
      simp only [moduleIndex]; omega
    have hj : moduleIndex C mr mc r - 8 = a ↔ a / 8 + 1 = mc + mr * C ∧ a % 8 = r := by
      simp only [moduleIndex]; omega
    rw [if_neg hne]
    by_cases h1 : moduleIndex C mr mc r = a
    · rw [if_pos h1, if_pos ((hi a).mp h1), h1]; rfl
    · rw [if_neg h1, if_neg (fun e => h1 ((hi a).mpr e))]
      by_cases h2 : moduleIndex C mr mc r - 8 = a
      · have h3 : a + 8 = moduleIndex C mr mc r := by simp only [moduleIndex] at h2 ⊢; omega
        have h4 := hj.mp h2
        rw [if_pos h2, if_pos ⟨h4.1, h4.2, hc.2, by rw [h3]; exact hc.1⟩, h2]
      · rw [if_neg h2, if_neg fun e => h2 (hj.mpr ⟨e.1, e.2.1⟩)]
  · rw [if_neg hc, Memory.read_write h]
    by_cases h1 : moduleIndex C mr mc r = a
    · rw [if_pos h1, if_pos ((hi a).mp h1), h1]; rfl
    · rw [if_neg h1, if_neg (fun e => h1 ((hi a).mpr e)), if_neg]
      rintro ⟨e1, e2, e3, e4⟩
      have h3 : a + 8 = moduleIndex C mr mc r := by simp only [moduleIndex]; omega
      exact hc ⟨h3 ▸ e4, e3⟩

/-- One byte after the first `k` pixel-rows of module-column `mc`. -/
theorem read_shiftRows {fb : Memory} (h : fb.wf = true) (mc : Nat) {k : Nat} (hk : k ≤ 8) (a : Nat) :
    ((List.range k).foldl (shiftByte C mr mc) fb).read a =
      if a / 8 = mc + mr * C ∧ a % 8 < k then fb.read a >>> 1
      else if a / 8 + 1 = mc + mr * C ∧ a % 8 < k ∧ mc ≥ 1 ∧ bit (fb.read (a + 8)) 0 = true then
        fb.read a ||| 0x80
      else fb.read a := by
  induction k generalizing a with
  | zero => simp
  | succ k ih =>
    rw [List.range_succ, List.foldl_append, List.foldl_cons, List.foldl_nil,
      read_shiftByte (foldl_keeps (P := fun fb : Memory => fb.wf = true)
        (fun _ r hb => shiftByte_wf hb mc r) _ h) (by omega), ih (by omega), ih (by omega)]
    have h8 : (a + 8) / 8 = a / 8 + 1 := by omega
    have h9 : (a + 8) % 8 = a % 8 := by omega
    rw [h8, h9]
    by_cases hr : a % 8 = k
    · have n1 : ¬ a % 8 < k := by omega
      have n2 : a % 8 < k + 1 := by omega
      simp [hr]
    · have n1 : a % 8 < k + 1 ↔ a % 8 < k := by omega
      simp only [hr, and_false, false_and, if_false, n1]

/-- One byte after the first `n` module-columns of module-row `mr`: the net effect of R165. -/
theorem read_shiftModules {fb : Memory} (h : fb.wf = true) (n a : Nat) :
    ((List.range n).foldl (fun fb mc => (List.range 8).foldl (shiftByte C mr mc) fb) fb).read a =
      if mr * C ≤ a / 8 ∧ a / 8 < mr * C + n then
        fb.read a >>> 1 |||
          (if a / 8 + 1 < mr * C + n ∧ bit (fb.read (a + 8)) 0 = true then 0x80 else 0)
      else fb.read a := by
  induction n generalizing a with
  | zero => rw [if_neg (by omega)]; rfl
  | succ n ih =>
    have hwf : ((List.range n).foldl
        (fun fb mc => (List.range 8).foldl (shiftByte C mr mc) fb) fb).wf = true :=
      foldl_keeps (P := fun fb : Memory => fb.wf = true)
        (fun _ mc hb => foldl_keeps (P := fun fb : Memory => fb.wf = true)
          (fun _ r hb => shiftByte_wf hb mc r) _ hb) _ h
    rw [List.range_succ (n := n), List.foldl_append, List.foldl_cons, List.foldl_nil,
      read_shiftRows hwf n (Nat.le_refl 8), ih, ih]
    have h8 : (a + 8) / 8 = a / 8 + 1 := by omega
    have h9 : a % 8 < 8 := by omega
    rw [h8]
    by_cases h1 : a / 8 = n + mr * C
    · have e1 : ¬ (mr * C ≤ a / 8 ∧ a / 8 < mr * C + n) := by omega
      have e2 : mr * C ≤ a / 8 ∧ a / 8 < mr * C + (n + 1) := by omega
      have e3 : ¬ a / 8 + 1 < mr * C + (n + 1) := by omega
      rw [if_pos ⟨h1, h9⟩, if_neg e1, if_pos e2, if_neg (fun e => e3 e.1)]
      simp
    · rw [if_neg (fun e => h1 e.1)]
      by_cases h2 : a / 8 + 1 = n + mr * C
      · have e1 : ¬ (mr * C ≤ a / 8 + 1 ∧ a / 8 + 1 < mr * C + n) := by omega
        have e2 : ¬ a / 8 + 1 < mr * C + n := by omega
        rw [if_neg e1]
        by_cases h3 : n ≥ 1
        · have e3 : mr * C ≤ a / 8 ∧ a / 8 < mr * C + n := by omega
          have e4 : mr * C ≤ a / 8 ∧ a / 8 < mr * C + (n + 1) := by omega
          have e5 : a / 8 + 1 < mr * C + (n + 1) := by omega
          rw [if_pos e3, if_pos e4]
          by_cases hb : bit (fb.read (a + 8)) 0 = true
          · rw [if_pos ⟨h2, h9, h3, hb⟩, if_neg (fun e => e2 e.1), if_pos ⟨e5, hb⟩]; simp
          · rw [if_neg (fun e => hb e.2.2.2), if_neg (fun e => e2 e.1), if_neg (fun e => hb e.2)]
        · have e3 : ¬ (mr * C ≤ a / 8 ∧ a / 8 < mr * C + n) := by omega
          have e4 : ¬ (mr * C ≤ a / 8 ∧ a / 8 < mr * C + (n + 1)) := by omega
          rw [if_neg (fun e => h3 e.2.2.1), if_neg e3, if_neg e4]
      · rw [if_neg (fun e => h2 e.1)]
        have e1 : (mr * C ≤ a / 8 ∧ a / 8 < mr * C + n) ↔
            (mr * C ≤ a / 8 ∧ a / 8 < mr * C + (n + 1)) := by omega
        have e2 : a / 8 + 1 < mr * C + n ↔ a / 8 + 1 < mr * C + (n + 1) := by omega
        simp only [e1, e2]

/-- One byte after `ShiftRow(mr)`. -/
theorem read_shiftRowFb {fb : Memory} (h : fb.wf = true) (a : Nat) :
    (shiftRowFb C mr fb).read a =
      if mr * C ≤ a / 8 ∧ a / 8 < mr * C + C then
        fb.read a >>> 1 |||
          (if a / 8 + 1 < mr * C + C ∧ bit (fb.read (a + 8)) 0 = true then 0x80 else 0)
      else fb.read a :=
  read_shiftModules h C a

/-- One byte after the loop body of R162. -/
theorem read_injectBit {p : Params} {fb : Memory} (h : fb.wf = true) (g : Byte) (f : Font) {r : Nat}
    (h8 : r < 8) (a : Nat) :
    (injectBit p C mr g f fb r).read a =
      if a / 8 = C - 1 + mr * C ∧ a % 8 = r ∧ bit g (glyphBit p f r) = true then fb.read a ||| 0x80
      else fb.read a := by
  have hi : moduleIndex C mr (C - 1) r = a ↔ a / 8 = C - 1 + mr * C ∧ a % 8 = r := by
    simp only [moduleIndex]; omega
  unfold injectBit
  dsimp only
  by_cases hb : bit g (glyphBit p f r) = true
  · rw [if_pos hb, Memory.read_write h]
    by_cases h1 : moduleIndex C mr (C - 1) r = a
    · have h2 := hi.mp h1
      rw [if_pos h1, h1, if_pos ⟨h2.1, h2.2, hb⟩]
    · rw [if_neg h1, if_neg fun e => h1 (hi.mpr ⟨e.1, e.2.1⟩)]
  · rw [if_neg hb, if_neg fun e => hb e.2.2]

/-- One byte after the first `k` rows of `Inject(mr, g, f)` (R162). -/
theorem read_injectRows {p : Params} {fb : Memory} (h : fb.wf = true) (g : Byte) (f : Font) {k : Nat}
    (hk : k ≤ 8) (a : Nat) :
    ((List.range k).foldl (injectBit p C mr g f) fb).read a =
      if a / 8 = C - 1 + mr * C ∧ a % 8 < k ∧ bit g (glyphBit p f (a % 8)) = true then
        fb.read a ||| 0x80
      else fb.read a := by
  induction k with
  | zero => simp
  | succ k ih =>
    have hwf : ((List.range k).foldl (injectBit p C mr g f) fb).wf = true :=
      foldl_keeps (P := fun fb : Memory => fb.wf = true) (fun _ r hb => injectBit_wf hb g f r) _ h
    rw [List.range_succ, List.foldl_append, List.foldl_cons, List.foldl_nil, read_injectBit hwf g f (by omega),
      ih (by omega)]
    by_cases hr : a % 8 = k
    · subst hr
      simp
    · have : a % 8 < k + 1 ↔ a % 8 < k := by omega
      simp only [hr, this, false_and, and_false, if_false]

/-- One byte after `Inject(mr, g, f)` (R162). -/
theorem read_inject {s : State} (h : s.fb.wf = true) (mr : Nat) (g : Byte) (f : Font) (a : Nat) :
    (inject s mr g f).fb.read a =
      if a / 8 = s.cols - 1 + mr * s.cols ∧ a % 8 < fontRows f ∧
          bit g (glyphBit s.params f (a % 8)) = true then
        s.fb.read a ||| 0x80
      else s.fb.read a :=
  read_injectRows h g f (by cases f <;> decide) a

end Sys2Proof.Machine
end

