-- ==== Sys2Proof/Laws/Step.lean ====
section
/-! SUPPORT. What the shared operations around the meanings do, each said once: the command and query gates,
the response, the broadcast, one wire pair, the glyph placement, and what taking a transfer leads to. -/

namespace Sys2Proof.Machine

variable {s t : State}

theorem respond_eq (s : State) : respond s = s.setResponse ⟨s.configured, s.cfgErr, true, 0⟩ := rfl

theorem raiseCfgError_eq (s : State) :
    raiseCfgError s = (s.setCfgErr true).setResponse ⟨s.configured, true, false, 0⟩ := rfl

theorem command_of_configured (h : s.configured = true) (effect : State → State) :
    command s effect = .next (respond (effect s)) := by
  simp [command, h]

theorem command_of_unconfigured (h : s.configured = false) (effect : State → State) :
    command s effect = .next (respond s) := by
  simp [command, h]

theorem query_of_configured (h : s.configured = true) (answer : State → State × BitVec 32) :
    query s answer = .next (respondValue (answer s).1 (answer s).2) := by
  simp [query, h]

theorem query_of_unconfigured (h : s.configured = false) (answer : State → State × BitVec 32) :
    query s answer = .next (respondValue s.drawFree (Config.freeQueryValue s.freeCount)) := by
  simp [query, h]

theorem gridRejected_iff {m rows cols : Nat} :
    gridRejected m rows cols = true ↔ rows < 1 ∨ cols < 1 ∨ rows * cols > m := by
  simp [gridRejected, or_assoc]

theorem moduleRowOk_iff {R : Nat} {mr : Int} :
    moduleRowOk R mr = true ↔ 0 ≤ mr ∧ mr < (R : Int) := by
  simp [moduleRowOk]

/-- What register `a` of device `d` holds after a packet (R119). -/
theorem chipReg_sendPacket_eq (s : State) (pair : Nat → Pair) (d : Nat) (a : Byte) :
    (sendPacket s pair).chipReg d a =
      (if d < s.deviceCount ∧ (pair d).addr = a then some (pair d).data
        else s.line.chain.written? d a).getD (Config.chipPowerOn d a) := by
  rw [sendPacket_eq]
  simp only [State.chipReg, written?_commit]

/-- A wire pair before construction does nothing. -/
theorem sendPair_of_unconfigured (h : s.configured = false) (p : Pair) : sendPair s p = s := by
  simp [sendPair, h]

/-- A wire pair while CONFIGURED is the broadcast of its register write. -/
theorem sendPair_of_configured (h : s.configured = true) (p : Pair) :
    sendPair s p = broadcast s p.addr p.data := by
  simp [sendPair, h]

/-- The dots of a glyph: one for each column and row of its box (R177). -/
theorem mem_glyphDots {p : Params} {f : Font} {g : List Byte} {x y : Int} {d : Dot} :
    d ∈ glyphDots p f g x y ↔ ∃ col row : Nat, col < fontCols f ∧ row < fontRows f ∧
      d = ((x + col, y + row), bit ((g[col]?).getD 0) (glyphBit p f row)) := by
  simp only [glyphDots, List.mem_flatMap, List.mem_map, List.mem_range]
  constructor
  · rintro ⟨c, hc, r, hr, rfl⟩; exact ⟨c, r, hc, hr, rfl⟩
  · rintro ⟨c, r, hc, hr, rfl⟩; exact ⟨c, hc, r, hr, rfl⟩

/-- Everything taking the next transfer can lead to. -/
theorem fetch_cases (s : State) :
    (s.port = [] ∧ fetch s = .done s) ∨
    (∃ w pl rest i, s.port = .command w pl :: rest ∧ decode (.command w pl) = .ok i ∧
      fetch s = .run i (s.setPort rest)) ∨
    (∃ w pl rest e, s.port = .command w pl :: rest ∧ decode (.command w pl) = .error e ∧
      fetch s = .done (respond (s.setPort rest))) ∨
    (∃ p rest i, s.port = .pair p :: rest ∧ decode (.pair p) = .ok i ∧
      fetch s = .run i (s.setPort rest)) ∨
    (∃ p rest e, s.port = .pair p :: rest ∧ decode (.pair p) = .error e ∧
      fetch s = .done (s.setPort rest)) := by
  unfold fetch
  split
  · exact .inl ⟨‹_›, rfl⟩
  · rename_i w pl rest hp
    cases hd : decode (.command w pl) with
    | ok i => exact .inr (.inl ⟨w, pl, rest, i, hp, hd, rfl⟩)
    | error e => exact .inr (.inr (.inl ⟨w, pl, rest, e, hp, hd, rfl⟩))
  · rename_i p rest hp
    cases hd : decode (.pair p) with
    | ok i => exact .inr (.inr (.inr (.inl ⟨p, rest, i, hp, hd, rfl⟩)))
    | error e => exact .inr (.inr (.inr (.inr ⟨p, rest, e, hp, hd, rfl⟩)))

end Sys2Proof.Machine
end

