-- ==== Sys2Proof/Tests/Slice0.lean ====
section
/-! SUPPORT. Tests with the spec's own vectors (95_test_vectors.md, under its test instantiation of the OPEN
parameters), the WellFormed smoke test, decoding of words written out from 30_encoding.md, and a witness for
the hypotheses of every statement that has some. -/

namespace Sys2Proof.Tests

open Sys2Proof.Machine Sys2Proof.Claims

/-- The test instantiation of 95_test_vectors.md. -/
def testParams : Params where
  maxDevices := 8
  initIntensity := 1
  initScrollDelay := 100
  glyphs :=
    [⟨65, .f8x8, [0x7E, 0x90, 0x90, 0x90, 0x7E, 0, 0, 0]⟩, ⟨65, .f5x7, [0x3F, 0x48, 0x48, 0x48, 0x3F]⟩,
     ⟨66, .f8x8, [0xFF, 0x91, 0x91, 0x91, 0x6E, 0, 0, 0]⟩, ⟨66, .f5x7, [0x7F, 0x49, 0x49, 0x49, 0x36]⟩]
  glyphBits8x8 := [7, 6, 5, 4, 3, 2, 1, 0]
  glyphBits5x7 := [6, 5, 4, 3, 2, 1, 0]
  chip := Config.chip

/-- The machine after reset under the test instantiation. -/
def fresh : State := State.resetWith testParams

/-- A FrameBuffer of the given bytes from index `i` on. -/
def bytesFrom : Nat → List Byte → Memory
  | _, [] => []
  | i, b :: bs => Memory.write (bytesFrom (i + 1) bs) i b

/-- A configured machine with the given grid, font and FrameBuffer bytes, and nothing sent yet. -/
def grid (R C : Nat) (f : Font) (bytes : List Byte) : State :=
  { fresh with configured := true, rows := R, cols := C, font := f, fb := bytesFrom 0 bytes }

/-- The state an outcome goes on with. -/
def after : Outcome → State
  | .next t => t
  | .fault f => nomatch f
  | .refused _ => State.resetWith { testParams with maxDevices := 0 }

/-- The first `n` bytes of the FrameBuffer. -/
def fbBytes (n : Nat) (o : Outcome) : List Byte := (List.range n).map (after o).fb.read

/-- The bytes handed to the transport. -/
def sent (o : Outcome) : List Byte :=
  (after o).trace.filterMap fun e => match e with | .tx b => some b | _ => none

/-- The number of events. -/
def events (o : Outcome) : Nat := (after o).trace.length

/-- The value of the response. -/
def answer (o : Outcome) : Option (BitVec 32) := (after o).response.map (·.value)

/-- The 16-bit slot of an integer. -/
def z (i : Int) : Slot := BitVec.ofInt 16 i

/-! ### WellFormed smoke test: a payload that differs from its count is refused (R63) -/

theorem test_ill_formed_scrollGlyph :
    Instr.wellFormed (.scrollGlyph 0 2 [0xFF]) = false := by
  decide

theorem test_ill_formed_drawWord :
    Instr.wellFormed (.drawWord 3 0 0 [0x41, 0x42]) = false := by
  decide

theorem test_well_formed_scrollGlyph :
    Instr.wellFormed (.scrollGlyph 0 2 [0xFF, 0x81]) = true := by
  decide

/-! ### Decoding of words written out from 30_encoding.md and 95_test_vectors.md -/

theorem test_word_construct :
    decode (.command 0x0100020004000000000000000000000000 []) = .ok (.construct 2 4) := by
  decide

theorem test_word_setIntensity :
    decode (.command 0x0200140000000000000000000000000000 []) = .ok (.setIntensity 20) := by
  decide

theorem test_word_setShutdown :
    decode (.command 0x0380000000000000000000000000000000 []) = .ok (.setShutdown 0x8000) := by
  decide

theorem test_word_setFont :
    decode (.command 0x0400070000000000000000000000000000 []) = .ok (.setFont 7) := by
  decide

theorem test_word_setScrollDelay :
    decode (.command 0x0500320000000000000000000000000000 []) = .ok (.setScrollDelay 50) := by
  decide

theorem test_word_mapAddr :
    decode (.command 0x10000A000D000000000000000000000000 []) = .ok (.mapAddr 10 13) := by
  decide

theorem test_word_setLed :
    decode (.command 0x11FFFF0003000100000000000000000000 []) = .ok (.setLed (z (-1)) 3 1) := by
  decide

theorem test_word_getLed :
    decode (.command 0x12000E0007000000000000000000000000 []) = .ok (.getLed 14 7) := by
  decide

theorem test_word_clearBuf :
    decode (.command 0x1300000000000000000000000000000000 []) = .ok .clearBuf := by
  decide

theorem test_word_bcast :
    decode (.command 0x20000A000F000000000000000000000000 []) = .ok (.bcast 0x0A 0x0F) := by
  decide

theorem test_word_refreshRow :
    decode (.command 0x2100070000000000000000000000000000 []) = .ok (.refreshRow 7) := by
  decide

theorem test_word_refresh :
    decode (.command 0x2200000000000000000000000000000000 []) = .ok .refresh := by
  decide

theorem test_word_clrRefresh :
    decode (.command 0x2300000000000000000000000000000000 []) = .ok .clrRefresh := by
  decide

theorem test_word_point :
    decode (.command 0x3000030004000000000000000000000000 []) = .ok (.point 3 4) := by
  decide

theorem test_word_drawLine :
    decode (.command 0x3100020003000900030000000000000000 []) = .ok (.drawLine 2 3 9 3) := by
  decide

theorem test_word_drawTri :
    decode (.command 0x3200000000000F00000000000F00000000 []) = .ok (.drawTri 0 0 15 0 0 15) := by
  decide

theorem test_word_drawQuad :
    decode (.command 0x3300010001000600010006000600010006 []) = .ok (.drawQuad 1 1 6 1 6 6 1 6) := by
  decide

theorem test_word_drawRect :
    decode (.command 0x34FFFEFFFE000500050000000000000000 []) = .ok (.drawRect (z (-2)) (z (-2)) 5 5) := by
  decide

theorem test_word_drawCircle :
    decode (.command 0x3500030003000300000000000000000000 []) = .ok (.drawCircle 3 3 3) := by
  decide

theorem test_word_drawEllipse :
    decode (.command 0x36000A000A000600060000000000000000 []) = .ok (.drawEllipse 10 10 6 6) := by
  decide

theorem test_word_shiftRow :
    decode (.command 0x4000000000000000000000000000000000 []) = .ok (.shiftRow 0) := by
  decide

theorem test_word_scrollGlyph :
    decode (.command 0x4100000002000000000000000000000000 [0xFF, 0x81]) = .ok (.scrollGlyph 0 2 [0xFF, 0x81]) := by
  decide

theorem test_word_scrollChar :
    decode (.command 0x4200410001000000000000000000000000 []) = .ok (.scrollChar 65 1) := by
  decide

theorem test_word_drawChar :
    decode (.command 0x5000420000000000000000000000000000 []) = .ok (.drawChar 66 0 0) := by
  decide

theorem test_word_drawWord :
    decode (.command 0x5100020000000000000000000000000000 [0x41, 0x42]) = .ok (.drawWord 2 0 0 [0x41, 0x42]) := by
  decide

theorem test_words_digits :
    decode (.pair 0b1010010100001000) = .ok (.wDigit0 0xA5) ∧
    decode (.pair 0b1010010100000111) = .ok (.wDigit1 0xA5) ∧
    decode (.pair 0b1010010100000110) = .ok (.wDigit2 0xA5) ∧
    decode (.pair 0b1010010100000101) = .ok (.wDigit3 0xA5) ∧
    decode (.pair 0b1010010100000100) = .ok (.wDigit4 0xA5) ∧
    decode (.pair 0b1010010100000011) = .ok (.wDigit5 0xA5) ∧
    decode (.pair 0b1010010100000010) = .ok (.wDigit6 0xA5) ∧
    decode (.pair 0b1010010100000001) = .ok (.wDigit7 0xA5) := by
  decide

theorem test_words_config_pairs :
    decode (.pair 0b0000000000001001) = .ok .wDecode ∧
    decode (.pair 0b0000111100001010) = .ok (.wIntensity 15) ∧
    decode (.pair 0b0000011100001011) = .ok .wScanLimit ∧
    decode (.pair 0b0000000100001100) = .ok (.wShutdown true) ∧
    decode (.pair 0b0000000000001100) = .ok (.wShutdown false) ∧
    decode (.pair 0b0000000000001111) = .ok .wDisplayTest := by
  decide

/-- V21: the reserved opcodes. -/
theorem test_reserved_opcodes :
    ([0x00, 0x06, 0x14, 0x24, 0x37, 0x43, 0x52, 0xFF] : List Byte).all (fun op =>
      decide (decode (.command (commandWord op 1 2 3 4 5 6 7 8) []) = .error (.reservedOpcode op))) = true := by
  decide

theorem test_payload_length_refused :
    decode (.command 0x5100030000000000000000000000000000 [0x41, 0x42]) =
    .error (.payloadLength 3 2) := by
  decide

theorem test_unlisted_pairs :
    decode (.pair 0x0000) = .error (.unlistedPair 0x0000) ∧
    decode (.pair 0x0109) = .error (.unlistedPair 0x0109) ∧
    decode (.pair 0x100A) = .error (.unlistedPair 0x100A) ∧
    decode (.pair 0x020C) = .error (.unlistedPair 0x020C) := by
  decide

/-! ### A table word runs as the first step -/

/-- A machine on a 1×2 grid that has run one wire pair and has REFRESH on its port. -/
def midPort : State :=
  { (after (exec (.wDigit0 0xA5) (grid 1 2 .f8x8 [0x81]))) with
    port := [.command 0x2200000000000000000000000000000000 []] }

theorem test_first_step_construct :
    decodeTableWord 136 0x0100010002000000000000000000000000 = some (.construct 1 2) ∧
    (after (step (fresh.withFetchWord 136 0x0100010002000000000000000000000000))).cols = 2 := by
  decide

theorem test_first_step_pair :
    decodeTableWord 16 0xFC05 = some (.wDigit3 0xFC) ∧
    sent (step ((grid 1 1 .f8x8 []).withFetchWord 16 0xFC05)) = [0xFC, 0x05] := by
  decide

/-- R66: a command after a wire pair runs and is answered. -/
theorem test_command_after_pair :
    (after (step midPort)).response = some ⟨true, false, true, 0⟩ ∧ events (step midPort) = 6 + 8 * 6 := by
  decide

/-- R72: address 0x0D is never generated except through BCAST. -/
theorem test_unlisted_pair_sends_nothing :
    events (step { grid 1 1 .f8x8 [] with port := [.pair 0x000D] }) = 0 ∧
    (after (step { grid 1 1 .f8x8 [] with port := [.pair 0x000D] })).port = [] := by
  decide

/-- V21: REFRESH before any CONSTRUCT. -/
theorem test_reset_ignores :
    (after (step (State.reset.withFetchWord 136 0x2200000000000000000000000000000000))).response =
    some ⟨false, false, true, 0⟩ := by
  decide

/-! ### Construction and configuration -/

/-- V19. -/
theorem test_construct :
    sent (exec (.construct 1 1) fresh) =
    [0x00, 0x0F, 0x07, 0x0B, 0x00, 0x09, 0x01, 0x0A, 0x01, 0x0C, 0, 8, 0, 7, 0, 6, 0, 5, 0, 4, 0, 3, 0, 2, 0, 1] ∧
    (after (exec (.construct 1 1) fresh)).response = some ⟨true, false, true, 0⟩ := by
  decide

/-- P6 step 1. -/
theorem test_construct_fails :
    exec (.construct 3 3) fresh =
    .next ((fresh.setCfgErr true).setResponse ⟨false, true, false, 0⟩) := by
  rfl

/-- X7. -/
theorem test_setIntensity :
    sent (exec (.setIntensity 5) (grid 1 1 .f8x8 [])) = [0x05, 0x0A] ∧
    (after (exec (.setIntensity 5) (grid 1 1 .f8x8 []))).intensity = 5 := by
  decide

/-- X7. -/
theorem test_setIntensity_ignored :
    sent (exec (.setIntensity 16) (grid 1 1 .f8x8 [])) = [] ∧
    (after (exec (.setIntensity 16) (grid 1 1 .f8x8 []))).intensity = 1 := by
  decide

/-- V20. -/
theorem test_setShutdown :
    sent (exec (.setShutdown 0x8000) (grid 1 1 .f8x8 [])) = [0x00, 0x0C] ∧
    (after (exec (.setShutdown 0x8000) (grid 1 1 .f8x8 []))).shutdown = true := by
  decide

/-- V20. -/
theorem test_setShutdown_wakes :
    sent (exec (.setShutdown 0) (grid 1 1 .f8x8 [])) = [0x01, 0x0C] := by
  decide

/-- V20. -/
theorem test_setFont :
    (after (exec (.setFont 0) (grid 1 1 .f8x8 []))).font = .f5x7 ∧
    (after (exec (.setFont 7) (grid 1 1 .f5x7 []))).font = .f5x7 := by
  decide

/-- V20. -/
theorem test_setScrollDelay :
    (after (exec (.setScrollDelay 65535) (grid 1 1 .f8x8 []))).scrollDelay = 65535 := by
  decide

/-! ### Mapper and FrameBuffer -/

/-- V2. -/
theorem test_mapAddr :
    answer (exec (.mapAddr 10 13) (grid 2 2 .f8x8 [])) = some 0x800000EA ∧
    answer (exec (.mapAddr 15 15) (grid 2 2 .f8x8 [])) = some 0x800000FF := by
  decide

/-- X1. -/
theorem test_setLed :
    (after (exec (.setLed 10 13 1) (grid 2 2 .f8x8 []))).fb = [(29, 0x04)] ∧
    (after (exec (.setLed (z (-1)) 0 1) (grid 2 2 .f8x8 []))).fb = [] := by
  decide

/-- V3. -/
theorem test_setLed_off :
    fbBytes 2 (exec (.setLed 7 0 0) (grid 1 1 .f8x8 [0x81])) = [0x01, 0x00] := by
  decide

/-- R103. -/
theorem test_getLed :
    answer (exec (.getLed 3 4) (grid 1 1 .f8x8 [0, 0, 0, 0, 0x08])) = some 1 ∧
    answer (exec (.getLed 4 3) (grid 1 1 .f8x8 [0, 0, 0, 0, 0x08])) = some 0 := by
  decide

/-- R104. -/
theorem test_clearBuf :
    (after (exec .clearBuf (grid 1 1 .f8x8 [0xFF, 0x81, 0x81, 0x81, 0x81, 0x81, 0x81, 0xFF]))).fb = [] := by
  decide

/-! ### The chain -/

/-- V4. -/
theorem test_bcast :
    sent (exec (.bcast 0x0A 0x0F) (grid 1 3 .f8x8 [])) = [0x0F, 0x0A, 0x0F, 0x0A, 0x0F, 0x0A] ∧
    events (exec (.bcast 0x100 0) (grid 1 3 .f8x8 [])) = 0 := by
  decide

/-- X6, V4. -/
theorem test_refreshRow :
    sent (exec (.refreshRow 3) { grid 1 3 .f8x8 [] with fb := [(3, 0xA0), (11, 0xB1), (19, 0xC2)] }) =
    [0xC2, 0x05, 0xB1, 0x05, 0xA0, 0x05] ∧
    events (exec (.refreshRow 8) (grid 1 3 .f8x8 [])) = 0 := by
  decide

/-- V5. -/
theorem test_refresh :
    sent (exec .refresh { grid 1 2 .f8x8 [] with fb := [(3, 0xFC), (11, 0x03)] }) =
    [0, 8, 0, 8, 0, 7, 0, 7, 0, 6, 0, 6, 0x03, 5, 0xFC, 5, 0, 4, 0, 4, 0, 3, 0, 3, 0, 2, 0, 2, 0, 1, 0, 1] := by
  decide

/-- V5. -/
theorem test_refresh_chain :
    (after (exec .refresh { grid 1 2 .f8x8 [] with fb := [(3, 0xFC), (11, 0x03)] })).line.chain.written? 0 5 =
    some 0xFC ∧
    (after (exec .refresh { grid 1 2 .f8x8 [] with fb := [(3, 0xFC), (11, 0x03)] })).line.chain.written? 1 5 =
    some 0x03 := by
  decide

/-- R118. -/
theorem test_clrRefresh :
    (after (exec .clrRefresh (grid 1 1 .f8x8 [0xFF]))).fb = [] ∧
    sent (exec .clrRefresh (grid 1 1 .f8x8 [0xFF])) = [0, 8, 0, 7, 0, 6, 0, 5, 0, 4, 0, 3, 0, 2, 0, 1] := by
  decide

/-! ### Shapes -/

/-- R130. -/
theorem test_point :
    fbBytes 8 (exec (.point 3 4) (grid 1 1 .f8x8 [])) =
    [0x00, 0x00, 0x00, 0x00, 0x08, 0x00, 0x00, 0x00] := by
  decide

/-- V7. -/
theorem test_drawLine :
    fbBytes 8 (exec (.drawLine 5 1 1 4) (grid 1 1 .f8x8 [])) =
    [0x00, 0x20, 0x18, 0x04, 0x02, 0x00, 0x00, 0x00] := by
  decide

/-- V7. -/
theorem test_drawLine_reverse :
    fbBytes 8 (exec (.drawLine 1 4 5 1) (grid 1 1 .f8x8 [])) =
    [0x00, 0x20, 0x10, 0x0C, 0x02, 0x00, 0x00, 0x00] := by
  decide

/-- V8. -/
theorem test_drawTri :
    fbBytes 8 (exec (.drawTri 0 0 7 0 0 7) (grid 1 1 .f8x8 [])) =
    [0xFF, 0x41, 0x21, 0x11, 0x09, 0x05, 0x03, 0x01] := by
  decide

/-- V8. -/
theorem test_drawTri_first_out :
    fbBytes 8 (exec (.drawTri 0 8 7 0 0 7) (grid 1 1 .f8x8 [])) =
    [0x80, 0x40, 0x20, 0x10, 0x08, 0x04, 0x02, 0x01] := by
  decide

/-- V8. -/
theorem test_drawQuad :
    fbBytes 8 (exec (.drawQuad 1 1 6 1 6 6 1 6) (grid 1 1 .f8x8 [])) =
    [0x00, 0x7E, 0x42, 0x42, 0x42, 0x42, 0x7E, 0x00] := by
  decide

/-- V8. -/
theorem test_drawQuad_last_out :
    fbBytes 8 (exec (.drawQuad 1 1 6 1 6 6 1 8) (grid 1 1 .f8x8 [])) =
    [0x00, 0x00, 0x00, 0x00, 0x00, 0x00, 0x00, 0x00] := by
  decide

/-- V9. -/
theorem test_drawRect :
    fbBytes 8 (exec (.drawRect (z (-2)) (z (-2)) 5 5) (grid 1 1 .f8x8 [])) =
    [0x04, 0x04, 0x07, 0x00, 0x00, 0x00, 0x00, 0x00] := by
  decide

/-- V9. -/
theorem test_drawRect_one_pixel :
    fbBytes 8 (exec (.drawRect 3 3 1 1) (grid 1 1 .f8x8 [])) =
    [0x00, 0x00, 0x00, 0x08, 0x00, 0x00, 0x00, 0x00] := by
  decide

/-- V10. -/
theorem test_drawCircle :
    fbBytes 8 (exec (.drawCircle 4 4 3) (grid 1 1 .f8x8 [])) =
    [0x00, 0x38, 0x44, 0x82, 0x82, 0x82, 0x44, 0x38] := by
  decide

/-- V10. -/
theorem test_drawCircle_corner :
    fbBytes 8 (exec (.drawCircle 0 0 2) (grid 1 1 .f8x8 [])) =
    [0x04, 0x04, 0x03, 0x00, 0x00, 0x00, 0x00, 0x00] := by
  decide

/-- V10. -/
theorem test_drawEllipse_tie :
    fbBytes 8 (exec (.drawEllipse 4 4 5 5) (grid 1 1 .f8x8 [])) =
    [0x00, 0x10, 0x6C, 0x44, 0x82, 0x44, 0x6C, 0x10] := by
  decide

/-- V10. -/
theorem test_drawEllipse_clipped :
    fbBytes 8 (exec (.drawEllipse 4 3 7 3) (grid 1 1 .f8x8 [])) =
    [0x00, 0x10, 0xEE, 0x01, 0xEE, 0x10, 0x00, 0x00] := by
  decide

/-! ### Scrolling and text -/

/-- V12. -/
theorem test_shiftRow :
    fbBytes 16 (exec (.shiftRow 0) (grid 1 2 .f8x8 [0x01, 0x02, 0x81, 0xFF, 0x00, 0x00, 0x00, 0x00, 0x01, 0x03, 0x80, 0xFF, 0x00, 0x00, 0x00, 0x55])) =
    [0x80, 0x81, 0x40, 0xFF, 0x00, 0x00, 0x00, 0x80, 0x00, 0x01, 0x40, 0x7F, 0x00, 0x00, 0x00, 0x2A] := by
  decide +kernel

/-- V12, V14. -/
theorem test_shiftRow_delay :
    (after (exec (.shiftRow 0) (grid 1 2 .f8x8 []))).trace = [.delay 100] ∧
    events (exec (.shiftRow (z (-1))) (grid 1 2 .f8x8 [])) = 0 := by
  decide

/-- V15. -/
theorem test_scrollGlyph :
    fbBytes 16 (exec (.scrollGlyph 0 2 [0xFF, 0x81]) (grid 1 2 .f8x8 [])) =
    [0x00, 0x00, 0x00, 0x00, 0x00, 0x00, 0x00, 0x00, 0xC0, 0x40, 0x40, 0x40, 0x40, 0x40, 0x40, 0xC0] := by
  decide +kernel

/-- V15. -/
theorem test_scrollGlyph_blank_step :
    events (exec (.scrollGlyph 0 0 []) (grid 1 2 .f5x7 [])) = 1 + 8 * 6 ∧
    events (exec (.scrollGlyph 1 2 [0xFF, 0x81]) (grid 1 2 .f8x8 [])) = 0 := by
  decide

/-- V16. -/
theorem test_scrollChar :
    fbBytes 16 (exec (.scrollChar 65 0) (grid 1 2 .f5x7 [])) =
    [0x00, 0x00, 0x00, 0x00, 0x00, 0x00, 0x00, 0x00, 0x38, 0x44, 0x44, 0x7C, 0x44, 0x44, 0x44, 0x00] := by
  decide +kernel

/-- V16. -/
theorem test_scrollChar_events :
    events (exec (.scrollChar 65 0) (grid 1 2 .f5x7 [])) = 295 ∧
    events (exec (.scrollChar 256 0) (grid 1 2 .f8x8 [])) = 0 := by
  decide +kernel

/-- V17 (b). -/
theorem test_drawChar_clears :
    fbBytes 16 (exec (.drawChar 65 4 0) (grid 1 2 .f8x8 [0xFF, 0xFF, 0xFF, 0xFF, 0xFF, 0xFF, 0xFF, 0xFF, 0xFF, 0xFF, 0xFF, 0xFF, 0xFF, 0xFF, 0xFF, 0xFF])) =
    [0xEF, 0x1F, 0x1F, 0xFF, 0x1F, 0x1F, 0x1F, 0x0F, 0xF0, 0xF1, 0xF1, 0xF1, 0xF1, 0xF1, 0xF1, 0xF0] := by
  decide

/-- V17 (d). -/
theorem test_drawChar_clipped :
    fbBytes 8 (exec (.drawChar 65 (z (-3)) 2) (grid 1 1 .f8x8 [])) =
    [0x00, 0x00, 0x01, 0x02, 0x02, 0x03, 0x02, 0x02] := by
  decide

/-- V18. -/
theorem test_drawWord :
    fbBytes 16 (exec (.drawWord 4 0 0 [65, 66, 65, 66]) (grid 1 2 .f5x7 [])) =
    [0xEE, 0x31, 0x31, 0xFF, 0x31, 0x31, 0xF1, 0x00, 0xB9, 0xC6, 0xC6, 0xFD, 0xC6, 0xC6, 0xC5, 0x00] := by
  decide +kernel

/-- V18. -/
theorem test_drawWord_events :
    (after (exec (.drawWord 2 0 0 [65, 66]) (grid 1 2 .f8x8 []))).trace =
    [.glyph 65 .f8x8, .glyph 66 .f8x8] := by
  decide

/-! ### Wire pairs -/

/-- R72, on a chain of one device. -/
theorem test_pairs_sent :
    sent (exec (.wDigit0 0xA5) (grid 1 1 .f8x8 [])) = [0xA5, 0x08] ∧
    sent (exec (.wDigit1 0xA5) (grid 1 1 .f8x8 [])) = [0xA5, 0x07] ∧
    sent (exec (.wDigit2 0xA5) (grid 1 1 .f8x8 [])) = [0xA5, 0x06] ∧
    sent (exec (.wDigit3 0xA5) (grid 1 1 .f8x8 [])) = [0xA5, 0x05] ∧
    sent (exec (.wDigit4 0xA5) (grid 1 1 .f8x8 [])) = [0xA5, 0x04] ∧
    sent (exec (.wDigit5 0xA5) (grid 1 1 .f8x8 [])) = [0xA5, 0x03] ∧
    sent (exec (.wDigit6 0xA5) (grid 1 1 .f8x8 [])) = [0xA5, 0x02] ∧
    sent (exec (.wDigit7 0xA5) (grid 1 1 .f8x8 [])) = [0xA5, 0x01] ∧
    sent (exec (.wDecode) (grid 1 1 .f8x8 [])) = [0x00, 0x09] ∧
    sent (exec (.wIntensity 15) (grid 1 1 .f8x8 [])) = [0x0F, 0x0A] ∧
    sent (exec (.wScanLimit) (grid 1 1 .f8x8 [])) = [0x07, 0x0B] ∧
    sent (exec (.wShutdown true) (grid 1 1 .f8x8 [])) = [0x01, 0x0C] ∧
    sent (exec (.wShutdown false) (grid 1 1 .f8x8 [])) = [0x00, 0x0C] ∧
    sent (exec (.wDisplayTest) (grid 1 1 .f8x8 [])) = [0x00, 0x0F] := by
  decide

/-- V4 and R112: one packet, the same pair for every device; nothing before construction. -/
theorem test_pair_broadcasts :
    sent (exec (.wIntensity 5) (grid 1 3 .f8x8 [])) = [0x05, 0x0A, 0x05, 0x0A, 0x05, 0x0A] ∧
    events (exec (.wIntensity 5) fresh) = 0 := by
  decide

/-- R113, with the same byte for both devices. -/
theorem test_pair_is_row_packet :
    exec (.wDigit3 0xFC) { grid 1 2 .f8x8 [] with fb := [(3, 0xFC), (11, 0xFC)] } =
    .next (sendRow { grid 1 2 .f8x8 [] with fb := [(3, 0xFC), (11, 0xFC)] } 3) := by
  rfl

/-! ### Witnesses: the hypotheses of the statements can be met -/

/-- A machine with a transfer on its port. -/
def holding (t : Transfer) : State := { grid 1 2 .f8x8 [0x81] with port := [t, .pair 0x0108] }

/-- A configured machine on a 1×2 grid with a FrameBuffer that is not blank. -/
def sample : State := grid 1 2 .f8x8 [0x81, 0x42]

/-- The same in the 5×7 font. -/
def sample5x7 : State := grid 1 2 .f5x7 [0x81, 0x42]

/-- The premises on the state that the statements about commands have: CONFIGURED, a canonical FrameBuffer,
and a column (the invariant of Safety.lean has all three). -/
abbrev Ready (s : State) : Prop := s.configured = true ∧ s.fb.wf = true ∧ 1 ≤ s.cols

theorem witness_DecodeOfEncode :
    Instr.wellFormed (.drawWord 2 0 0 [0x41, 0x42]) = true := by
  decide

theorem witness_EncodeOfDecodedPair :
    decode (.pair 0xFC05) = .ok (.wDigit3 0xFC) := by
  decide

theorem witness_UnusedSlotsAreIgnored :
    opcode 0x0200050000000000000000000000000000 = opcode 0x020005FFFF0000000000000000000000FF ∧
    slotsUsed (opcode 0x0200050000000000000000000000000000).toNat = 1 ∧
    slot 0x0200050000000000000000000000000000 0 = slot 0x020005FFFF0000000000000000000000FF 0 ∧
    payloadCount 0x0200050000000000000000000000000000 = none := by
  decide

theorem witness_StepRunsDecodedInstruction :
    (holding (.command 0x1300000000000000000000000000000000 [])).port =
      [.command 0x1300000000000000000000000000000000 [], .pair 0x0108] ∧
    decode (.command 0x1300000000000000000000000000000000 []) = .ok .clearBuf ∧
    decode (.pair 0x0108) = .ok (.wDigit0 0x01) ∧ fresh.port = [] ∧
    decode (.command 0 []) = .error (.reservedOpcode 0) ∧ decode (.pair 0x000D) = .error (.unlistedPair 0x000D) := by
  decide

theorem witness_DispatchOfCommands :
    (opcode 0x0600000000000000000000000000000000).toNat ∉ opcodes ∧
    (opcode 0x5100030000000000000000000000000000).toNat ∈ opcodes ∧
    payloadCount 0x5100030000000000000000000000000000 = some 3 ∧ ([0x41, 0x42] : List Byte).length ≠ 3 ∧
    fresh.configured = false ∧ (opcode 0x1000000000000000000000000000000000).toNat = 0x10 ∧
    (grid 1 2 .f8x8 []).configured = true := by
  decide

/-- The invariant holds of a state whose trace, chain and FrameBuffer are not empty. -/
theorem inv_midPort : Inv midPort where
  fbCanonical := by decide
  fbInGrid := by decide
  chainCanonical := by decide
  chainInGrid := by decide
  gridConfigured := by decide
  gridUnconfigured := by decide
  lineReplays := by decide
  framed := by decide
  chipSelectHigh := by decide

theorem witness_StepKeepsInvariant : Inv midPort ∧ ∃ t, step midPort = .next t ∧ t.trace ≠ [] :=
  ⟨inv_midPort, _, rfl, by decide⟩

theorem witness_GridIsImmutable : ∃ t, step (holding (.pair 0xFC05)) = .next t ∧
    (holding (.pair 0xFC05)).configured = true := ⟨_, rfl, rfl⟩

theorem witness_TraceIsAppendOnly : ∃ t, step (holding (.pair 0xFC05)) = .next t := ⟨_, rfl⟩

theorem witness_WhoWritesWhat : ∃ t, exec (.setFont 0) (grid 1 2 .f8x8 []) = .next t ∧
    writesFb (.setFont 0) = false ∧ emits (.setFont 0) = false ∧ transmits (.setFont 0) = false :=
  ⟨_, rfl, rfl, rfl, rfl⟩

theorem witness_LifeCycleFlags :
    (∃ t, exec (.construct 2 4) fresh = .next t) ∧ fresh.configured = false ∧
    1 ≤ (2 : Slot).toNat ∧ (2 : Slot).toNat * (4 : Slot).toNat ≤ fresh.params.maxDevices ∧
    ¬ (1 : Slot).toNat * (9 : Slot).toNat ≤ fresh.params.maxDevices :=
  ⟨⟨_, rfl⟩, rfl, by decide, by decide, by decide⟩

theorem witness_CommandsLeaveChipSelectHigh : (grid 1 2 .f8x8 []).line.cs = true ∧
    ∃ t, exec .refresh (grid 1 2 .f8x8 []) = .next t :=
  ⟨rfl, _, rfl⟩

theorem witness_ResponseOfCommands :
    (holding (.command 0x1200000000000000000000000000000000 [])).port =
      [.command 0x1200000000000000000000000000000000 [], .pair 0x0108] ∧
    (opcode 0x1200000000000000000000000000000000).toNat = 0x12 ∧ (opcode 0x1000080000000000000000000000000000).toNat = 0x10 ∧
    (holding (.command 0x1200000000000000000000000000000000 [])).configured = true ∧
    inRange 1 2 15 7 = true ∧ inRange 1 2 16 0 = false := by
  decide

theorem witness_MapIsTheLayout :
    inRange 2 2 15 15 = true ∧ inRange 2 2 0 0 = true := by
  decide

theorem witness_MapProperties :
    inRange 1 2 7 7 = true ∧ inRange 1 2 8 7 = true ∧ inRange 2 1 7 8 = true ∧
    inRange 2 1 7 7 = true ∧ inRange 2 2 6 6 = true ∧ inRange 2 2 7 6 = true ∧ inRange 2 2 6 7 = true ∧
    31 < 8 * (2 * 2) := by
  decide

theorem witness_MapAddrAnswers :
    Ready sample ∧ inRange sample.rows sample.cols (15 : Slot).toInt (7 : Slot).toInt = true ∧
    inRange sample.rows sample.cols (16 : Slot).toInt (0 : Slot).toInt = false ∧ inRange sample.rows sample.cols (z (-1)).toInt (0 : Slot).toInt = false := by
  decide

/-- The premises of GetLedAnswers, ClearBufClears, RefreshShowsTheFrameBuffer, ClrRefreshClearsAndSends,
SetShutdownOutcome, SetScrollDelayStores and DrawEllipseIsTheClosedForm. -/
theorem witness_Ready :
    Ready sample ∧ sample.fb ≠ [] := by
  decide

theorem witness_SetLedReadsBack :
    Ready sample ∧ inRange 1 2 (15 : Slot).toInt (7 : Slot).toInt = true ∧ inRange 1 2 (15 : Slot).toInt (8 : Slot).toInt = false ∧
    (0 : Nat) ≠ mapIndex 2 (15 : Slot).toInt (7 : Slot).toInt := by
  decide

theorem witness_PacketCommitsAtEveryDevice :
    2 < (grid 1 3 .f8x8 []).deviceCount ∧ ¬ 3 < (grid 1 3 .f8x8 []).deviceCount := by
  decide

theorem witness_BcastSends :
    Ready sample ∧ (256 : Slot).toNat > 255 ∧ (255 : Slot).toNat ≤ 255 := by
  decide

theorem witness_RefreshRowSends :
    Ready sample ∧ (8 : Slot).toNat > 7 ∧ (7 : Slot).toNat ≤ 7 := by
  decide

theorem witness_ConstructOutcome :
    fresh.configured = false ∧ (0 : Slot).toNat < 1 ∧ (1 : Slot).toNat * (9 : Slot).toNat > fresh.params.maxDevices ∧
    1 ≤ (2 : Slot).toNat ∧ 1 ≤ (4 : Slot).toNat ∧ (2 : Slot).toNat * (4 : Slot).toNat ≤ fresh.params.maxDevices := by
  decide

theorem witness_ConstructBringsUpTheChain :
    fresh.params.chip = Config.chip ∧ fresh.configured = false ∧ 7 < (2 : Slot).toNat * (4 : Slot).toNat ∧
    (0 : Byte).toNat ∉ [1, 2, 3, 4, 5, 6, 7, 8, 9, 10, 11, 12, 15] := by
  decide

theorem witness_SetIntensityOutcome :
    Ready sample ∧ (16 : Slot).toNat > 15 ∧ (15 : Slot).toNat ≤ 15 := by
  decide

theorem witness_SetFontOutcome :
    Ready sample ∧ (0 : Slot).toNat = 0 ∧ (1 : Slot).toNat = 1 ∧ (2 : Slot).toNat > 1 := by
  decide

theorem witness_ShapesOnlySetPixels :
    Ready sample ∧ shapePixels sample (.drawRect 0 0 1 2) = some [(0, 0), (0, 1), (0, 0), (0, 1), (0, 0), (0, 1)] ∧
    inRange 1 1 0 1 = true ∧ (1 : Nat) = mapIndex 1 0 1 := by
  decide

theorem witness_PlotOrderDoesNotMatter : (grid 1 1 .f8x8 [0x81]).fb.wf = true ∧
    ∀ p : Int × Int, p ∈ [((0 : Int), (1 : Int)), (2, 3), (0, 1)] ↔ p ∈ [((2 : Int), (3 : Int)), (0, 1)] := by
  refine ⟨by decide, fun p => ?_⟩
  simp only [List.mem_cons, List.not_mem_nil, or_false]
  tauto

theorem witness_DrawLineDrawsTheLoop :
    Ready sample ∧ inRange 1 2 (0 : Slot).toInt (0 : Slot).toInt = true ∧ inRange 1 2 (15 : Slot).toInt (7 : Slot).toInt = true ∧
    inRange 1 2 (16 : Slot).toInt (7 : Slot).toInt = false := by
  decide

theorem witness_LineReachesItsEnd :
    inRange 1 1 0 7 = true ∧ inRange 1 1 7 0 = true ∧ (7 : Int) ≠ 0 := by
  decide

theorem witness_LineIsConnected :
    inRange 1 1 0 0 = true ∧ inRange 1 1 7 7 = true ∧ |(7 : Int) - 0| ≤ |(7 : Int) - 0| := by
  decide

theorem witness_DrawTriIsThreeLines :
    Ready sample ∧ inRange 1 2 (0 : Slot).toInt (7 : Slot).toInt = true ∧ inRange 1 2 (0 : Slot).toInt (8 : Slot).toInt = false := by
  decide

theorem witness_DrawQuadIsFourLines :
    Ready sample ∧ inRange 1 2 (1 : Slot).toInt (6 : Slot).toInt = true ∧ inRange 1 2 (1 : Slot).toInt (8 : Slot).toInt = false := by
  decide

theorem witness_DrawRectDrawsTheBorder :
    Ready sample ∧ OnRect (-2) (-2) 5 5 2 0 ∧ (z (-2)).toInt = -2 ∧ (1 : Int) ≤ 1 ∧
    inRange 1 1 2 0 = true := by
  unfold OnRect; decide

theorem witness_EllipseIsSymmetric :
    (1 : Int) ≤ 6 ∧ (7, 9) ∈ ellipsePixels 10 10 6 6 ∧ (2 * 10 - 7, 9) ∈ ellipsePixels 10 10 6 6 := by
  decide

theorem witness_DrawCircleIsAnEllipse :
    Ready sample ∧ (6 : Slot).toInt = 2 * (3 : Slot).toInt ∧ (0 : Slot).toInt < 1 ∧ (z (-3)).toInt < 1 := by
  decide

theorem witness_ShiftRowNetEffect :
    Ready sample ∧ (z (-1)).toInt < 0 ∧ (sample.rows : Int) ≤ (1 : Slot).toInt ∧ (0 : Slot).toInt = ((0 : Nat) : Int) ∧
    0 < sample.rows ∧ inRange 1 2 15 7 = true ∧ ¬ (15 : Int) ≤ 8 * (2 : Nat) - 2 := by
  decide

theorem witness_ScrollGlyphScrolls :
    Ready sample ∧ ([0xFF, 0x81] : List Byte).length = (2 : Slot).toNat ∧ ([0xFF] : List Byte).length ≠ (2 : Slot).toNat ∧
    ([] : List Byte).length = (0 : Slot).toNat ∧
    (0 : Slot).toInt = ((0 : Nat) : Int) ∧ 0 < sample.rows ∧ (sample.rows : Int) ≤ (1 : Slot).toInt ∧
    steppedColumns sample [0xFF, 0x81] = [0xFF, 0x81] ∧ steppedColumns sample [] = [] := by
  decide

/-- In the 5×7 font a blank column follows, also after an empty payload (V15). -/
theorem witness_ScrollGlyphScrolls_5x7 :
    Ready sample5x7 ∧ ([0xFF] : List Byte).length = (1 : Slot).toNat ∧ ([] : List Byte).length = (0 : Slot).toNat ∧
    (0 : Slot).toInt = ((0 : Nat) : Int) ∧ 0 < sample5x7.rows ∧
    steppedColumns sample5x7 [0xFF] = [0xFF, 0x00] ∧ steppedColumns sample5x7 [] = [0x00] := by
  decide

theorem witness_ScrollCharFetchesAndScrolls :
    Ready sample ∧ (256 : Slot).toNat > 255 ∧ (255 : Slot).toNat ≤ 255 ∧ 0 ≤ (0 : Slot).toInt ∧
    (0 : Slot).toInt < sample.rows ∧ (sample.rows : Int) ≤ (1 : Slot).toInt := by
  decide

theorem witness_DrawCharPlacesTheGlyph :
    Ready sample ∧ (256 : Slot).toNat > 255 ∧ (255 : Slot).toNat ≤ 255 ∧ InBox (z (-3)).toInt (2 : Slot).toInt 8 8 4 7 ∧
    ¬ InBox (z (-3)).toInt (2 : Slot).toInt 8 8 5 7 := by
  decide

theorem witness_DrawWordPlacesTheWord :
    Ready sample ∧ ([65, 66] : List Byte).length = (2 : Slot).toNat ∧ ([65, 66] : List Byte).length ≠ (3 : Slot).toNat ∧
    InBox (0 : Slot).toInt (0 : Slot).toInt (2 * 8) 8 15 7 ∧ ¬ InBox (0 : Slot).toInt (0 : Slot).toInt (2 * 8) 8 16 7 := by
  decide

theorem witness_WirePairRuns :
    wirePair (.wDigit3 0xFC) = some ⟨0xFC, 0x05⟩ ∧ fresh.configured = false ∧ (grid 1 2 .f8x8 []).configured = true ∧
    1 < (grid 1 2 .f8x8 []).deviceCount ∧ ¬ 2 < (grid 1 2 .f8x8 []).deviceCount := by
  decide

theorem witness_WirePairsMakeThePacket :
    wirePair (.wDigit3 0xFC) = some ⟨0xFC, 0x05⟩ ∧ sample.configured = true ∧ sample.deviceCount = 2 ∧
    (7 : Slot).toNat ≤ 7 ∧ (∀ d, d < sample.deviceCount → sample.fb.read (8 * d + (7 : Slot).toNat) = 0) ∧
    (15 : Slot).toNat < 16 ∧ sample.params.chip = Config.chip ∧ fresh.configured = false ∧ fresh.params.chip = Config.chip ∧
    1 ≤ (2 : Slot).toNat ∧ 1 ≤ (4 : Slot).toNat ∧ (2 : Slot).toNat * (4 : Slot).toNat ≤ fresh.params.maxDevices := by
  decide

end Sys2Proof.Tests
end

/-! PROOFS. The response record at the end of a command (10_state.md R31): what the step does with a command first
on the port, which of the four kinds of command it decodes to, and what each kind presents. -/

namespace Sys2Proof.Machine

section step
variable {s : State} {w : CommandWord} {pl : List Byte} {rest : List Transfer}

theorem step_of_decode_ok {i : Instr} (hp : s.port = .command w pl :: rest)
    (hd : decodeCommand w pl = .ok i) : step s = exec i (s.setPort rest) := by
  simp [step, fetch, hp, decode, hd]

theorem step_of_decode_error {e : DecodeError} (hp : s.port = .command w pl :: rest)
    (hd : decodeCommand w pl = .error e) : step s = .next (respond (s.setPort rest)) := by
  simp [step, fetch, hp, decode, hd]

end step

section decode
variable {w : CommandWord} {pl : List Byte}

theorem decodeCommand_construct (h : (opcode w).toNat = 0x01) :
    decodeCommand w pl = .ok (.construct (slot w 0) (slot w 1)) := by
  simp [decodeCommand, h]

theorem decodeCommand_mapAddr (h : (opcode w).toNat = 0x10) :
    decodeCommand w pl = .ok (.mapAddr (slot w 0) (slot w 1)) := by
  simp [decodeCommand, h]

theorem decodeCommand_getLed (h : (opcode w).toNat = 0x12) :
    decodeCommand w pl = .ok (.getLed (slot w 0) (slot w 1)) := by
  simp [decodeCommand, h]

/-- Every command but CONSTRUCT and the two queries is an effect behind the life-cycle gate of R66 (2). -/
theorem exec_eq_command_of_decode {i : Instr} (hd : decodeCommand w pl = .ok i)
    (hc : (opcode w).toNat ≠ 0x01) (hm : (opcode w).toNat ≠ 0x10) (hg : (opcode w).toNat ≠ 0x12) :
    ∃ effect : State → State, ∀ s, exec i s = command s effect := by
  unfold decodeCommand at hd
  split at hd
  -- the cases stand in the order of the opcode map (R65): CONSTRUCT, MAPADDR and GETLED are excluded
  case h_1 h => exact absurd h hc
  case h_6 h => exact absurd h hm
  case h_8 h => exact absurd h hg
  case h_22 | h_25 =>
    -- the two commands with a payload: a payload of another length decodes to nothing (R63)
    split at hd
    · cases hd; exact ⟨_, fun _ => rfl⟩
    · cases hd
  -- a reserved opcode
  case h_26 => cases hd
  -- the other twenty commands of the table
  all_goals cases hd; exact ⟨_, fun _ => rfl⟩

end decode

/-- The outcome is a next state that presents the response of R31 with the given `ok` and `value`, and with the
flags as they are in that state. -/
def Presents (o : Outcome) (ok : Bool) (value : BitVec 32) : Prop :=
  ∃ t, o = .next t ∧ t.response = some ⟨t.configured, t.cfgErr, ok, value⟩

section presents
variable (s : State)

theorem presents_respondValue (value : BitVec 32) : Presents (.next (respondValue s value)) true value :=
  ⟨_, rfl, rfl⟩

theorem presents_respond : Presents (.next (respond s)) true 0 := presents_respondValue s 0

theorem presents_raiseCfgError : Presents (.next (raiseCfgError s)) false 0 := ⟨_, rfl, rfl⟩

theorem presents_command (effect : State → State) : Presents (command s effect) true 0 :=
  presents_respond _

/-- A query never fails; its value is the answer while CONFIGURED, and open otherwise (log 8). -/
theorem presents_query (answer : State → State × BitVec 32) :
    ∃ value, Presents (query s answer) true value ∧ (s.configured = true → value = (answer s).2) := by
  cases h : s.configured with
  | false =>
    rw [query_of_unconfigured h]
    exact ⟨_, presents_respondValue _ _, nofun⟩
  | true =>
    rw [query_of_configured h]
    exact ⟨_, presents_respondValue _ _, fun _ => rfl⟩

/-- CONSTRUCT presents `ok = 0` exactly when it validates its grid and rejects it (R190, R211). -/
theorem presents_execConstruct (rows cols : Slot) :
    Presents (execConstruct rows cols s)
      (s.configured || !gridRejected s.params.maxDevices rows.toNat cols.toNat) 0 := by
  unfold execConstruct unsigned
  cases s.configured with
  | true => exact presents_respond s
  | false =>
    cases gridRejected s.params.maxDevices rows.toNat cols.toNat with
    | true => exact presents_raiseCfgError s
    | false => exact presents_respond _

theorem getLsbD_31_zero_append (v : BitVec 31) : (0#1 ++ v : BitVec 32).getLsbD 31 = false :=
  BitVec.getLsbD_append.trans (by simp)

/-- MAPADDR presents the mapper's answer in range, and a value with bit 31 clear out of range (R92). -/
theorem presents_execMapAddr (x y : Slot) :
    ∃ value, Presents (execMapAddr x y s) true value ∧ (s.configured = true →
      (inRange s.rows s.cols x.toInt y.toInt = true → value = mapValue s.cols x.toInt y.toInt) ∧
      (inRange s.rows s.cols x.toInt y.toInt = false → value.getLsbD 31 = false)) := by
  obtain ⟨value, hpres, hvalue⟩ := presents_query s _
  refine ⟨value, hpres, fun hconf => ⟨fun hin => ?_, fun hout => ?_⟩⟩ <;> rw [hvalue hconf]
  · simp [signed, hin]
  · simpa only [signed, hout, Bool.false_eq_true, if_false] using getLsbD_31_zero_append _

/-- GETLED presents the pixel (R103). -/
theorem presents_execGetLed (x y : Slot) :
    ∃ value, Presents (execGetLed x y s) true value ∧ (s.configured = true →
      value = if Claims.readPixel s x.toInt y.toInt then 1 else 0) :=
  presents_query s _

end presents

theorem gridRejected_iff_not_valid {m rows cols : Nat} :
    gridRejected m rows cols = true ↔ ¬ (1 ≤ rows ∧ 1 ≤ cols ∧ rows * cols ≤ m) := by
  rw [gridRejected_iff]; omega

/-- A command that is neither CONSTRUCT nor a query presents `ok = 1` and `value = 0`, also when it is ignored
(R31, R66). -/
theorem presents_step_of_no_query {s : State} {w : CommandWord} {pl : List Byte} {rest : List Transfer}
    (hp : s.port = .command w pl :: rest) (hc : (opcode w).toNat ≠ 0x01)
    (hm : (opcode w).toNat ≠ 0x10) (hg : (opcode w).toNat ≠ 0x12) : Presents (step s) true 0 := by
  cases hd : decodeCommand w pl with
  | error e =>
    rw [step_of_decode_error hp hd]
    exact presents_respond _
  | ok i =>
    obtain ⟨effect, heffect⟩ := exec_eq_command_of_decode hd hc hm hg
    rw [step_of_decode_ok hp hd, heffect]
    exact presents_command _ effect

/-- Settles O16: the opcode is CONSTRUCT, MAPADDR, GETLED or another one, and each kind has its own rule for what
it presents. -/
theorem responseOfCommands : Obligations.ResponseOfCommands := by
  intro s w pl rest hp
  by_cases hc : (opcode w).toNat = 0x01
  · obtain ⟨t, hexec, hresponse⟩ := presents_execConstruct (s.setPort rest) (slot w 0) (slot w 1)
    refine ⟨t, _, 0, (step_of_decode_ok hp (decodeCommand_construct hc)).trans hexec, hresponse, ?_⟩
    rw [← gridRejected_iff_not_valid]
    simp [hc]
  by_cases hm : (opcode w).toNat = 0x10
  · obtain ⟨value, ⟨t, hexec, hresponse⟩, hvalue⟩ :=
      presents_execMapAddr (s.setPort rest) (slot w 0) (slot w 1)
    refine ⟨t, true, value, (step_of_decode_ok hp (decodeCommand_mapAddr hm)).trans hexec, hresponse, ?_⟩
    exact ⟨by simp [hm], fun h => absurd hm h, by simp [hm], fun _ => hvalue⟩
  by_cases hg : (opcode w).toNat = 0x12
  · obtain ⟨value, ⟨t, hexec, hresponse⟩, hvalue⟩ :=
      presents_execGetLed (s.setPort rest) (slot w 0) (slot w 1)
    refine ⟨t, true, value, (step_of_decode_ok hp (decodeCommand_getLed hg)).trans hexec, hresponse, ?_⟩
    exact ⟨by simp [hg], fun _ h => absurd hg h, fun _ => hvalue, fun h => absurd h hm⟩
  · obtain ⟨t, hstep, hresponse⟩ := presents_step_of_no_query hp hc hm hg
    exact ⟨t, true, 0, hstep, hresponse, by simp [hc, hm, hg]⟩

end Sys2Proof.Machine

/-! PROOFS. Dispatch of a command (30_encoding.md R66): which commands decode, and what the step does with one that
is ignored. -/

namespace Sys2Proof.Machine

section decode
variable {w : CommandWord} {pl : List Byte}

/-- R66 (1): an opcode outside the map of R65 is named as reserved. -/
theorem decodeCommand_of_not_mem_opcodes (h : (opcode w).toNat ∉ Claims.opcodes) :
    decodeCommand w pl = .error (.reservedOpcode (opcode w)) := by
  unfold decodeCommand
  split
  -- a reserved opcode
  case h_26 => rfl
  -- the 25 opcodes of the map
  all_goals next hop => exact absurd (hop ▸ by decide) h

/-- R66 (4): a payload of another length than the count operand asks for is rejected (R63). -/
theorem decodeCommand_of_payload_ne {n : Nat} (hn : Claims.payloadCount w = some n) (hne : pl.length ≠ n) :
    decodeCommand w pl = .error (.payloadLength n pl.length) := by
  unfold Claims.payloadCount at hn
  split_ifs at hn with hglyph hword <;> cases hn
  · simp [decodeCommand, hglyph, hne]
  · simp [decodeCommand, hword, hne]

/-- A command with an opcode of the map, and with the payload its count operand asks for, decodes. -/
theorem exists_decodeCommand_eq_ok (hop : (opcode w).toNat ∈ Claims.opcodes)
    (hpl : ∀ n, Claims.payloadCount w = some n → pl.length = n) : ∃ i, decodeCommand w pl = .ok i := by
  unfold decodeCommand
  split
  -- the two commands with a payload, SCROLLGLYPH and DRAWWORD
  case h_22 | h_25 => exact ⟨_, if_pos (hpl _ (by simp [Claims.payloadCount, *]))⟩
  -- a reserved opcode
  case h_26 => simp_all [Claims.opcodes]
  -- the other 23 commands of the table
  all_goals exact ⟨_, rfl⟩

/-- MAPADDR and GETLED decode, and run as queries behind the life-cycle gate. -/
theorem exists_exec_eq_query (hq : (opcode w).toNat = 0x10 ∨ (opcode w).toNat = 0x12) :
    ∃ (i : Instr) (answer : State → State × BitVec 32),
      decodeCommand w pl = .ok i ∧ ∀ s, exec i s = query s answer := by
  obtain hm | hg := hq
  · exact ⟨_, _, decodeCommand_mapAddr hm, fun _ => rfl⟩
  · exact ⟨_, _, decodeCommand_getLed hg, fun _ => rfl⟩

end decode

section ignored
variable {s : State}

/-- R66 (2) at the gate of a command that is no query. -/
theorem command_eq_ignored_of_unconfigured (h : s.configured = false) (effect : State → State) :
    command s effect = .next (Claims.ignored s) :=
  command_of_unconfigured h effect

/-- R66 (2) at the gate of a query: only the response and the counter of free values change (log 8). -/
theorem exists_query_of_unconfigured (h : s.configured = false) (answer : State → State × BitVec 32) :
    ∃ n value, query s answer =
      .next (({ s with freeCount := n }).setResponse ⟨false, s.cfgErr, true, value⟩) := by
  refine ⟨s.freeCount + 1, Config.freeQueryValue s.freeCount, ?_⟩
  rw [query_of_unconfigured h, ← h]
  rfl

/-- R66 (3): CONSTRUCT is ignored while CONFIGURED. -/
theorem execConstruct_of_configured (h : s.configured = true) (rows cols : Slot) :
    execConstruct rows cols s = .next (Claims.ignored s) := by
  simp [execConstruct, h, Claims.ignored, okResponse, respond_eq]

end ignored

section step
variable {s : State} {w : CommandWord} {pl : List Byte} {rest : List Transfer}

/-- A command that decodes to nothing is ignored. -/
theorem step_eq_ignored_of_decode_error {e : DecodeError} (hp : s.port = .command w pl :: rest)
    (hd : decodeCommand w pl = .error e) : step s = .next (Claims.ignored (s.setPort rest)) :=
  step_of_decode_error hp hd

/-- R66 (2) for every command that is neither CONSTRUCT nor a query, whether it decodes or not. -/
theorem step_eq_ignored_of_unconfigured (hp : s.port = .command w pl :: rest) (hconf : s.configured = false)
    (hc : (opcode w).toNat ≠ 0x01) (hm : (opcode w).toNat ≠ 0x10) (hg : (opcode w).toNat ≠ 0x12) :
    step s = .next (Claims.ignored (s.setPort rest)) := by
  cases hd : decodeCommand w pl with
  | error e => exact step_eq_ignored_of_decode_error hp hd
  | ok i =>
    obtain ⟨effect, heffect⟩ := exec_eq_command_of_decode hd hc hm hg
    rw [step_of_decode_ok hp hd, heffect]
    exact command_eq_ignored_of_unconfigured (s := s.setPort rest) hconf effect

/-- R66 (2) for the two queries. -/
theorem exists_step_of_unconfigured_query (hp : s.port = .command w pl :: rest) (hconf : s.configured = false)
    (hq : (opcode w).toNat = 0x10 ∨ (opcode w).toNat = 0x12) : ∃ n value,
    step s = .next (({ s.setPort rest with freeCount := n }).setResponse ⟨false, s.cfgErr, true, value⟩) := by
  obtain ⟨i, answer, hd, hanswer⟩ := exists_exec_eq_query (pl := pl) hq
  rw [step_of_decode_ok hp hd, hanswer]
  exact exists_query_of_unconfigured (s := s.setPort rest) hconf answer

end step

/-- Settles O6: a command that decodes runs its instruction, one that does not is ignored, and the life-cycle gate
sits in the instructions themselves. -/
theorem dispatchOfCommands : Obligations.DispatchOfCommands := by
  intro s w pl rest hp
  refine ⟨fun hreserved => ?_, fun hconf hc => ?_, fun hconf hc => ?_, fun n hn hne => ?_, fun hop hpl => ?_⟩
  · exact step_eq_ignored_of_decode_error hp (decodeCommand_of_not_mem_opcodes hreserved)
  · by_cases hq : (opcode w).toNat = 0x10 ∨ (opcode w).toNat = 0x12
    · obtain ⟨n, value, hstep⟩ := exists_step_of_unconfigured_query hp hconf hq
      exact ⟨n, value, hstep, fun hm hg => absurd hq (by simp [hm, hg])⟩
    · obtain ⟨hm, hg⟩ := not_or.mp hq
      refine ⟨s.freeCount, 0, ?_, fun _ _ => ⟨rfl, rfl⟩⟩
      rw [step_eq_ignored_of_unconfigured hp hconf hc hm hg, ← hconf]
      rfl
  · rw [step_of_decode_ok hp (decodeCommand_construct hc)]
    exact execConstruct_of_configured (s := s.setPort rest) hconf _ _
  · exact step_eq_ignored_of_decode_error hp (decodeCommand_of_payload_ne hn hne)
  · obtain ⟨i, hd⟩ := exists_decodeCommand_eq_ok hop hpl
    exact ⟨i, hd, step_of_decode_ok hp hd⟩

end Sys2Proof.Machine

/-! PROOFS. The address mapper (40_addressmapper.md R93, R94): its index and bit in the integers on its domain, and
its values at the pixels of a module. -/

namespace Sys2Proof.Machine

/-- The layout form of the byte index (R93). -/
theorem mapIndex_eq_layout {R C : Nat} {x y : Int} (h : inRange R C x y = true) :
    (mapIndex C x y : Int) = 8 * (x / 8 + y / 8 * (C : Int)) + y % 8 := by
  obtain ⟨hx, -, hy, -⟩ := inRange_iff.mp h
  rw [mapIndex_eq h, moduleIndex]
  push_cast
  rw [Int.toNat_of_nonneg hx, Int.toNat_of_nonneg hy]

/-- The layout form is the literal formula of R91, because `y = 8 * (y / 8) + y % 8`. -/
theorem layout_eq_literal (c x y : Int) :
    8 * (x / 8 + y / 8 * c) + y % 8 = 8 * (x / 8 + y / 8 * (c - 1)) + y := by
  linear_combination Int.emod_def y 8

theorem mapBit_eq_emod (x : Int) : (mapBit x : Int) = x % 8 :=
  Int.toNat_of_nonneg (Int.emod_nonneg x (by decide))

/-- Settles O18: the layout form, and its equality with the literal formula. -/
theorem mapIsTheLayout : Obligations.MapIsTheLayout := by
  intro R C x y h
  have hlayout := mapIndex_eq_layout h
  exact ⟨hlayout.trans (layout_eq_literal C x y), hlayout, mapBit_eq_emod x⟩

section modulePixel
variable {R C mr mc r b : Nat}

/-- Pixel `(b, r)` of the module at `(mr, mc)` is a pixel of the grid. -/
theorem inRange_modulePixel (hmr : mr < R) (hmc : mc < C) (hr : r < 8) (hb : b < 8) :
    inRange R C (8 * mc + b : Nat) (8 * mr + r : Nat) = true :=
  inRange_iff.mpr (by omega)

/-- Pixel-row `r` of the module at `(mr, mc)` has the byte index `idx(mr, mc, r)` (R41). -/
theorem mapIndex_modulePixel (hmr : mr < R) (hmc : mc < C) (hr : r < 8) (hb : b < 8) :
    mapIndex C (8 * mc + b : Nat) (8 * mr + r : Nat) = moduleIndex C mr mc r := by
  rw [mapIndex_eq (inRange_modulePixel hmr hmc hr hb), Int.toNat_natCast, Int.toNat_natCast]
  congr 1 <;> omega

theorem mapBit_modulePixel (hb : b < 8) : mapBit (8 * mc + b : Nat) = b := by
  rw [mapBit_eq (Int.natCast_nonneg _), Int.toNat_natCast]
  omega

end modulePixel

/-- Byte `i` is the byte of pixel-row `i % 8` of module number `i / 8`, counted along the module-rows. -/
theorem moduleIndex_div_mod (C i : Nat) : moduleIndex C (i / 8 / C) (i / 8 % C) (i % 8) = i := by
  rw [moduleIndex, Nat.mod_add_div', Nat.div_add_mod]

/-- The module at the far corner of the grid holds the last byte. -/
theorem moduleIndex_last {R C : Nat} (hR : 1 ≤ R) (hC : 1 ≤ C) :
    moduleIndex C (R - 1) (C - 1) 7 = 8 * (R * C) - 1 := by
  obtain ⟨R, rfl⟩ := Nat.exists_eq_add_of_le' hR
  rw [moduleIndex, Nat.add_sub_cancel, Nat.add_mul]
  omega

/-- R94 (a): the bound is reached at the last pixel. -/
theorem map_lastPixel {R C : Nat} (hR : 1 ≤ R) (hC : 1 ≤ C) :
    inRange R C (8 * C - 1) (8 * R - 1) = true ∧
      mapIndex C (8 * C - 1) (8 * R - 1) = 8 * (R * C) - 1 ∧ mapBit (8 * C - 1) = 7 := by
  have hx : (8 * C - 1 : Int) = (8 * (C - 1) + 7 : Nat) := by omega
  have hy : (8 * R - 1 : Int) = (8 * (R - 1) + 7 : Nat) := by omega
  have hmr : R - 1 < R := by omega
  have hmc : C - 1 < C := by omega
  rw [hx, hy]
  exact ⟨inRange_modulePixel hmr hmc (by decide) (by decide),
    (mapIndex_modulePixel hmr hmc (by decide) (by decide)).trans (moduleIndex_last hR hC),
    mapBit_modulePixel (by decide)⟩

/-- R94 (c): every bit of every byte is the place of the pixel that the rule names. -/
theorem map_surj {R C i b : Nat} (hi : i < 8 * (R * C)) (hb : b ≤ 7) :
    inRange R C (8 * (i / 8 % C) + b : Nat) (8 * (i / 8 / C) + i % 8 : Nat) = true ∧
      mapIndex C (8 * (i / 8 % C) + b : Nat) (8 * (i / 8 / C) + i % 8 : Nat) = i ∧
      mapBit (8 * (i / 8 % C) + b : Nat) = b := by
  have hdev : i / 8 < R * C := Nat.div_lt_of_lt_mul hi
  have hmr : i / 8 / C < R := Nat.div_lt_of_lt_mul (by rwa [Nat.mul_comm])
  have hmc : i / 8 % C < C := Nat.mod_lt _ (Nat.pos_of_mul_pos_left (Nat.zero_lt_of_lt hdev))
  have hr : i % 8 < 8 := Nat.mod_lt _ (by decide)
  have hb : b < 8 := Nat.lt_succ_of_le hb
  exact ⟨inRange_modulePixel hmr hmc hr hb,
    (mapIndex_modulePixel hmr hmc hr hb).trans (moduleIndex_div_mod C i), mapBit_modulePixel hb⟩

section reductions
variable {R C : Nat} {x y : Int}

/-- R94 (d): one module-row. -/
theorem mapIndex_of_oneRow (h : inRange 1 C x y = true) : (mapIndex C x y : Int) = 8 * (x / 8) + y := by
  obtain ⟨-, -, hy0, hy1⟩ := inRange_iff.mp h
  have hmr : y / 8 = 0 := by omega
  rw [mapIndex_eq_layout h, hmr]
  omega

/-- R94 (e): one module-column. -/
theorem mapIndex_of_oneColumn (h : inRange R 1 x y = true) : (mapIndex 1 x y : Int) = y := by
  obtain ⟨hx0, hx1, -, -⟩ := inRange_iff.mp h
  rw [mapIndex_eq_layout h]
  omega

end reductions

section neighbours
variable {R C : Nat} {x y : Int}

/-- R94 (f): one pixel to the right inside a module. -/
theorem map_right_of_inside (h : inRange R C x y = true) (h' : inRange R C (x + 1) y = true)
    (hx : x % 8 ≠ 7) : mapIndex C (x + 1) y = mapIndex C x y ∧ mapBit (x + 1) = mapBit x + 1 := by
  have hi := mapIndex_eq_layout h
  have hi' := mapIndex_eq_layout h'
  have hb := mapBit_eq_emod x
  have hb' := mapBit_eq_emod (x + 1)
  omega

/-- R94 (f): one pixel to the right, into the next module. -/
theorem map_right_of_edge (h : inRange R C x y = true) (h' : inRange R C (x + 1) y = true)
    (hx : x % 8 = 7) : mapIndex C (x + 1) y = mapIndex C x y + 8 ∧ mapBit (x + 1) = 0 := by
  have hi := mapIndex_eq_layout h
  have hi' := mapIndex_eq_layout h'
  have hb' := mapBit_eq_emod (x + 1)
  omega

/-- R94 (f): one pixel down inside a module. -/
theorem mapIndex_down_of_inside (h : inRange R C x y = true) (h' : inRange R C x (y + 1) = true)
    (hy : y % 8 ≠ 7) : mapIndex C x (y + 1) = mapIndex C x y + 1 := by
  have hi := mapIndex_eq_layout h
  have hi' := mapIndex_eq_layout h'
  have hmr : (y + 1) / 8 = y / 8 := by omega
  rw [hmr] at hi'
  omega

/-- R94 (f): one pixel down, into the module-row below. -/
theorem mapIndex_down_of_edge (h : inRange R C x y = true) (h' : inRange R C x (y + 1) = true)
    (hy : y % 8 = 7) : mapIndex C x (y + 1) + 7 = mapIndex C x y + 8 * C := by
  have hi := mapIndex_eq_layout h
  have hi' := mapIndex_eq_layout h'
  have hmr : (y + 1) / 8 = y / 8 + 1 := by omega
  rw [hmr, Int.add_mul, Int.one_mul] at hi'
  omega

end neighbours

/-- Settles O19: the parts of R94, one lemma each. -/
theorem mapProperties : Obligations.MapProperties := by
  intro R C
  refine ⟨fun x y h => ⟨?_, Nat.le_of_lt_succ (mapBit_lt x)⟩, map_lastPixel,
    fun x y x' y' => map_inj, fun i b => map_surj, ?_, ?_,
    fun x y h h' => ⟨map_right_of_inside h h', map_right_of_edge h h'⟩,
    fun x y h h' => ⟨mapIndex_down_of_inside h h', mapIndex_down_of_edge h h'⟩⟩
  · rw [Nat.mul_comm]
    exact mapIndex_lt h
  · rintro x y rfl h
    exact mapIndex_of_oneRow h
  · rintro x y rfl h
    exact mapIndex_of_oneColumn h

end Sys2Proof.Machine

/-! PROOFS. MAPADDR (40_addressmapper.md R92): the fields of its answer, and its two outcomes while CONFIGURED. -/

namespace Sys2Proof.Machine

section answerFields
variable (C : Nat) (x y : Int)

theorem mapValue_valid : (mapValue C x y).getLsbD 31 = true :=
  BitVec.getLsbD_append.trans (by simp)

theorem mapValue_byteIndex : (mapValue C x y).extractLsb' 3 28 = BitVec.ofNat 28 (mapIndex C x y) := by
  rw [mapValue, BitVec.extractLsb'_append_eq_of_add_le (by decide),
    BitVec.extractLsb'_append_eq_of_le (by decide), BitVec.extractLsb'_eq_self]

theorem mapValue_bit : (mapValue C x y).extractLsb' 0 3 = BitVec.ofNat 3 (mapBit x) := by
  rw [mapValue, BitVec.extractLsb'_append_eq_of_add_le (by decide),
    BitVec.extractLsb'_append_eq_of_add_le (by decide), BitVec.extractLsb'_eq_self]

end answerFields

section outcomes
variable {s : State} {x y : Slot}

/-- In range MAPADDR answers the mapper's place and changes nothing but the response. -/
theorem execMapAddr_of_inRange (hconf : s.configured = true)
    (hin : inRange s.rows s.cols x.toInt y.toInt = true) :
    execMapAddr x y s = .next (respondValue s (mapValue s.cols x.toInt y.toInt)) := by
  rw [execMapAddr, query_of_configured hconf]
  simp only [signed, hin, if_true]

/-- Out of range MAPADDR answers a free value below a clear valid bit, and counts it (log 3). -/
theorem execMapAddr_of_not_inRange (hconf : s.configured = true)
    (hout : inRange s.rows s.cols x.toInt y.toInt = false) :
    execMapAddr x y s = .next (respondValue s.drawFree (0#1 ++ Config.freeMapBits s.freeCount)) := by
  rw [execMapAddr, query_of_configured hconf]
  simp only [signed, hout, Bool.false_eq_true, if_false]

end outcomes

/-- Settles O20: in range the fields of the mapper's answer, out of range the clear valid bit. -/
theorem mapAddrAnswers : Obligations.MapAddrAnswers := by
  intro s x y hconf
  refine ⟨fun hin => ?_, fun hout => ?_⟩
  · exact ⟨_, execMapAddr_of_inRange hconf hin, mapValue_valid _ _ _, mapValue_byteIndex _ _ _,
      mapValue_bit _ _ _⟩
  · exact ⟨s.freeCount + 1, _, execMapAddr_of_not_inRange hconf hout, getLsbD_31_zero_append _⟩

end Sys2Proof.Machine

/-! PROOFS. The FrameBuffer commands (41_framebuffer.md R102 to R104): what one pixel write does to the bytes, and
the state after SETLED, GETLED and CLEARBUF while CONFIGURED. -/

namespace Sys2Proof.Machine

section framebuffer
variable {R C : Nat} {fb : Memory}

/-- `GetPixel` is bit `b` of byte `i` for `(i, b) = Map(x, y)`, and off out of range (R101). -/
theorem pixel_eq_true_iff {x y : Int} : pixel R C fb x y = true ↔
    inRange R C x y = true ∧ (fb.read (mapIndex C x y)).getLsbD (mapBit x) = true := by
  cases h : inRange R C x y <;> simp [pixel, bit, h]

/-- The FrameBuffer that CLEARBUF leaves lists no byte, so every pixel is off (R104). -/
theorem pixel_nil (x y : Int) : pixel R C [] x y = false := by
  simp [pixel, bit, Memory.read]

/-- A pixel write out of range writes nothing (R100). -/
theorem setPixel_of_not_inRange {d : Dot} (h : inRange R C d.1.1 d.1.2 = false) :
    setPixel R C fb d = fb := by
  simp [setPixel, h]

/-- A pixel write leaves every byte but the mapped one alone (R100). -/
theorem read_setPixel_of_ne {d : Dot} {a : Nat} (h : a ≠ mapIndex C d.1.1 d.1.2) :
    (setPixel R C fb d).read a = fb.read a := by
  cases hin : inRange R C d.1.1 d.1.2 with
  | false => rw [setPixel_of_not_inRange hin]
  | true => simp only [setPixel, hin, if_true, Memory.read_write_ne _ _ h.symm]

end framebuffer

/-- A command that replaces the FrameBuffer and answers changes nothing else (R36). -/
theorem onlyFb_respond_setFb (s : State) (m : Memory) : OnlyFb s (respond (s.setFb m)) := by
  constructor <;> rfl

/-- The pixels a host can read back after such a command are those of the new FrameBuffer. -/
theorem readPixel_respond_setFb (s : State) (m : Memory) (x y : Int) :
    Claims.readPixel (respond (s.setFb m)) x y = pixel s.rows s.cols m x y := rfl

section outcomes
variable {s : State} (x y on : Slot)

theorem execSetLed_of_configured (hconf : s.configured = true) : execSetLed x y on s =
    .next (respond (s.setFb
      (setPixel s.rows s.cols s.fb ((x.toInt, y.toInt), decide (on.toNat ≠ 0))))) :=
  command_of_configured hconf _

theorem execGetLed_of_configured (hconf : s.configured = true) : execGetLed x y s =
    .next (respondValue s (if pixel s.rows s.cols s.fb x.toInt y.toInt then 1 else 0)) :=
  query_of_configured hconf _

theorem execClearBuf_of_configured (hconf : s.configured = true) :
    execClearBuf s = .next (respond (s.setFb [])) :=
  command_of_configured hconf _

end outcomes

/-- Settles O22: SETLED is one pixel write, so the rules of `setPixel` for pixels and for bytes give each part. -/
theorem setLedReadsBack : Obligations.SetLedReadsBack := by
  intro s x y on hconf hwf
  refine ⟨_, execSetLed_of_configured x y on hconf, onlyFb_respond_setFb s _, rfl,
    fun a b hab => ?_, fun hout a => ?_, fun a ha => read_setPixel_of_ne ha⟩
  · rw [readPixel_respond_setFb, pixel_setPixel hwf]
    simp only [hab, true_and, Prod.mk.injEq, eq_comm (a := x.toInt), eq_comm (a := y.toInt),
      Claims.readPixel]
  · exact congrArg (Memory.read · a) (setPixel_of_not_inRange hout)

/-- Settles O21: the answer is the pixel, read by the rule of `GetPixel`. -/
theorem getLedAnswers : Obligations.GetLedAnswers := by
  intro s x y hconf
  refine (execGetLed_of_configured x y hconf).trans ?_
  simp only [pixel_eq_true_iff, respondValue]

/-- Settles O23: no byte of the FrameBuffer is listed after CLEARBUF. -/
theorem clearBufClears : Obligations.ClearBufClears := by
  intro s hconf
  exact ⟨_, execClearBuf_of_configured hconf, onlyFb_respond_setFb s [], rfl, fun _ => rfl, pixel_nil⟩

end Sys2Proof.Machine

/-! PROOFS. Packets and the chain driver's commands (42_chain_protocol.md R111 to R119): the bytes of a packet, what
`SendPacket` and `Refresh` leave behind, and the states after BCAST, REFRESHROW, REFRESH and CLRREFRESH while
CONFIGURED. -/

namespace Sys2Proof.Machine

/-- In the packet buffer `P[2*j]` is the data byte of device `n-1-j` and `P[2*j+1]` its address byte (R111). -/
theorem getElem?_pairBytes {pair : Nat → Pair} {n j : Nat} (hj : j < n) :
    (pairBytes pair n)[2 * j]? = some (pair (n - 1 - j)).data ∧
    (pairBytes pair n)[2 * j + 1]? = some (pair (n - 1 - j)).addr := by
  induction n generalizing j with
  | zero => omega
  | succ n ih =>
    cases j with
    | zero => exact ⟨rfl, rfl⟩
    | succ j =>
      rw [pairBytes, show n + 1 - 1 - (j + 1) = n - 1 - j by omega]
      exact ih (by omega)

section packets
variable (n : Nat)

theorem pairEvents_eq_flatMap (pair : Nat → Pair) : pairEvents pair n =
    (List.range n).reverse.flatMap fun d => [.tx (pair d).data, .tx (pair d).addr] := by
  induction n with
  | zero => rfl
  | succ n ih => simp [pairEvents, ih, List.range_succ]

theorem packetEvents_eq_packet (pair : Nat → Pair) : packetEvents n pair = Claims.packet n pair := by
  simp [packetEvents, Claims.packet, pairEvents_eq_flatMap]

theorem refreshEvents_eq_refreshPackets (fb : Memory) :
    refreshEvents n fb = Claims.refreshPackets n fb :=
  congrArg ((List.range 8).flatMap ·) (funext fun r => packetEvents_eq_packet n (rowPair fb r))

/-- The refresh of a cleared FrameBuffer is a broadcast of zero to each digit register (R118). -/
theorem refreshPackets_nil : Claims.refreshPackets n [] =
    (List.range 8).flatMap fun r => Claims.broadcastPacket n (BitVec.ofNat 8 (8 - r)) 0x00 := rfl

end packets

section send
variable (s : State) (pair : Nat → Pair)

theorem sendPacket_trace : (sendPacket s pair).trace = s.trace ++ Claims.packet s.deviceCount pair := by
  rw [sendPacket, emit_trace, packetEvents_eq_packet]

@[simp] theorem sendPacket_line_cs : (sendPacket s pair).line.cs = true := by
  rw [sendPacket_eq]; rfl

/-- At `CS_HIGH` every device of the grid does the register write of its pair (R119). -/
theorem chipReg_sendPacket (d : Nat) (a : Byte) : (sendPacket s pair).chipReg d a =
    if d < s.deviceCount ∧ a = (pair d).addr then (pair d).data else s.chipReg d a := by
  rw [chipReg_sendPacket_eq]
  simp only [eq_comm (b := a)]
  split_ifs <;> rfl

/-- A command that replaces the FrameBuffer, emits events and answers changes nothing else (R36). -/
theorem onlyFbAndTrace_respond_emit (m : Memory) (es : List Event) :
    OnlyFbAndTrace s (respond (emit (s.setFb m) es)) := by
  constructor <;> rfl

/-- What a command leaves behind that sends one packet and answers. -/
theorem respond_sendPacket_spec :
    OnlyFbAndTrace s (respond (sendPacket s pair)) ∧ (respond (sendPacket s pair)).fb = s.fb ∧
    (respond (sendPacket s pair)).line.cs = true ∧
    (respond (sendPacket s pair)).response = some (okResponse s) ∧
    (respond (sendPacket s pair)).trace = s.trace ++ Claims.packet s.deviceCount pair ∧
    ∀ d a, (respond (sendPacket s pair)).chipReg d a =
      if d < s.deviceCount ∧ a = (pair d).addr then (pair d).data else s.chipReg d a :=
  ⟨onlyFbAndTrace_respond_emit s s.fb _, rfl, sendPacket_line_cs s pair, rfl, sendPacket_trace s pair,
    chipReg_sendPacket s pair⟩

end send

section refresh
variable (s : State)

theorem eq_regDigit_iff {a : Byte} {r : Nat} : a = regDigit r ↔ a.toNat = 8 - r := by
  rw [regDigit, ← BitVec.toNat_inj, BitVec.toNat_ofNat, Nat.mod_eq_of_lt (by omega)]

/-- After the packets of pixel-rows `0` to `k-1` the digit registers `8` down to `9-k` show the FrameBuffer. -/
theorem chipReg_foldl_sendRow {k : Nat} (hk : k ≤ 8) (d : Nat) (a : Byte) :
    ((List.range k).foldl sendRow s).chipReg d a =
      if d < s.deviceCount ∧ 8 - k < a.toNat ∧ a.toNat ≤ 8 then s.fb.read (8 * d + (8 - a.toNat))
      else s.chipReg d a := by
  induction k with
  | zero => rw [if_neg (by omega)]; rfl
  | succ k ih =>
    rw [List.range_succ, List.foldl_append, List.foldl_cons, List.foldl_nil, sendRow, chipReg_sendPacket,
      ih (by omega)]
    simp only [rowPair, foldl_sendRow, emit_deviceCount, emit_fb, eq_regDigit_iff]
    by_cases hrow : a.toNat = 8 - k
    · -- the register that row `k` writes, and that no earlier row has written
      have hread : 8 - a.toNat = k := by omega
      have hnew : 8 - (k + 1) < a.toNat ∧ a.toNat ≤ 8 := by omega
      simp only [← hrow, hread, hnew, lt_irrefl, and_true, and_false, if_false]
    · have hrange : 8 - (k + 1) < a.toNat ↔ 8 - k < a.toNat := by omega
      simp only [hrow, hrange, and_false, if_false]

theorem refreshAll_trace :
    (refreshAll s).trace = s.trace ++ Claims.refreshPackets s.deviceCount s.fb := by
  rw [refreshAll_eq, emit_trace, refreshEvents_eq_refreshPackets]

@[simp] theorem refreshAll_line_cs : (refreshAll s).line.cs = true :=
  -- the last of the eight packets leaves chip-select high
  sendPacket_line_cs ((List.range 7).foldl sendRow s) _

/-- After `Refresh` the chain shows the FrameBuffer (R114, R48). -/
theorem digitsShow_refreshAll : Claims.DigitsShow s (refreshAll s) s.fb :=
  chipReg_foldl_sendRow s (Nat.le_refl 8)

/-- What a command leaves behind that sets the FrameBuffer to `m`, refreshes and answers. -/
theorem respond_refreshAll_spec (m : Memory) :
    OnlyFbAndTrace s (respond (refreshAll (s.setFb m))) ∧ (respond (refreshAll (s.setFb m))).fb = m ∧
    (respond (refreshAll (s.setFb m))).line.cs = true ∧
    (respond (refreshAll (s.setFb m))).response = some (okResponse s) ∧
    (respond (refreshAll (s.setFb m))).trace = s.trace ++ Claims.refreshPackets s.deviceCount m ∧
    Claims.DigitsShow s (respond (refreshAll (s.setFb m))) m := by
  refine ⟨?_, ?_, refreshAll_line_cs _, ?_, refreshAll_trace _, digitsShow_refreshAll (s.setFb m)⟩
    <;> rw [refreshAll_eq]
  · exact onlyFbAndTrace_respond_emit s m _
  · rfl
  · rfl

end refresh

section outcomes
variable {s : State} {addr val row : Slot}

/-- While CONFIGURED a command answers in the state its effect leads to. -/
theorem command_eq_of_effect_eq {t : State} {effect : State → State} (hconf : s.configured = true)
    (he : effect s = t) : command s effect = .next (respond t) := by
  rw [command_of_configured hconf, he]

theorem execBcast_of_gt (hconf : s.configured = true) (h : addr.toNat > 255 ∨ val.toNat > 255) :
    execBcast addr val s = .next (Claims.ignored s) :=
  command_eq_of_effect_eq hconf (if_pos h)

theorem execBcast_of_le (hconf : s.configured = true) (haddr : addr.toNat ≤ 255) (hval : val.toNat ≤ 255) :
    execBcast addr val s = .next (respond
      (sendPacket s fun _ => ⟨BitVec.ofNat 8 val.toNat, BitVec.ofNat 8 addr.toNat⟩)) :=
  command_eq_of_effect_eq hconf (if_neg (not_or.mpr ⟨haddr.not_gt, hval.not_gt⟩))

theorem execRefreshRow_of_gt (hconf : s.configured = true) (h : row.toNat > 7) :
    execRefreshRow row s = .next (Claims.ignored s) :=
  command_eq_of_effect_eq hconf (if_pos h)

theorem execRefreshRow_of_le (hconf : s.configured = true) (h : row.toNat ≤ 7) :
    execRefreshRow row s = .next (respond (sendPacket s (rowPair s.fb row.toNat))) :=
  command_eq_of_effect_eq hconf (if_neg h.not_gt)

theorem execRefresh_of_configured (hconf : s.configured = true) :
    execRefresh s = .next (respond (refreshAll (s.setFb s.fb))) :=
  command_of_configured hconf _

theorem execClrRefresh_of_configured (hconf : s.configured = true) :
    execClrRefresh s = .next (respond (refreshAll (s.setFb []))) :=
  command_of_configured hconf _

end outcomes

/-- Settles O24: the packet buffer is `pairBytes`, and its bytes stand where R111 puts them. -/
theorem packetOnTheWire : Obligations.PacketOnTheWire := by
  intro s pair
  refine ⟨pairBytes pair s.deviceCount, ?_, ?_, fun _ => getElem?_pairBytes, sendPacket_line_cs s pair⟩
  · simp [sendPacket, packetEvents, pairEvents_eq]
  · rw [pairBytes_length, State.packetBytes, Nat.mul_comm]

/-- Settles O25. -/
theorem packetCommitsAtEveryDevice : Obligations.PacketCommitsAtEveryDevice :=
  chipReg_sendPacket

/-- Settles O26: with byte operands BCAST is one packet, the same pair for every device. -/
theorem bcastSends : Obligations.BcastSends := by
  intro s addr val hconf
  exact ⟨execBcast_of_gt hconf,
    fun haddr hval => ⟨_, execBcast_of_le hconf haddr hval, respond_sendPacket_spec s _⟩⟩

/-- Settles O27: for a pixel-row REFRESHROW is one packet, each device with its own byte. -/
theorem refreshRowSends : Obligations.RefreshRowSends := by
  intro s row hconf
  exact ⟨execRefreshRow_of_gt hconf,
    fun hrow => ⟨_, execRefreshRow_of_le hconf hrow, respond_sendPacket_spec s _⟩⟩

/-- Settles O28: the refresh of the FrameBuffer as it stands. -/
theorem refreshShowsTheFrameBuffer : Obligations.RefreshShowsTheFrameBuffer := by
  intro s hconf
  exact ⟨_, execRefresh_of_configured hconf, respond_refreshAll_spec s s.fb⟩

/-- Settles O29: the refresh of the cleared FrameBuffer, whose row packets are broadcasts of zero. -/
theorem clrRefreshClearsAndSends : Obligations.ClrRefreshClearsAndSends := by
  intro s hconf
  obtain ⟨hframe, hfb, hcs, hresponse, htrace, hdigits⟩ := respond_refreshAll_spec s []
  refine ⟨_, execClrRefresh_of_configured hconf, hframe, fun a => ?_, hcs, hresponse, ?_, hdigits⟩
  · rw [hfb]; rfl
  · rw [htrace, refreshPackets_nil]

end Sys2Proof.Machine

/-! PROOFS. What a shape command does while CONFIGURED (43_shapes.md R130, R139): it plots the pixels of its rule and
answers.  The statements about the single shapes need then only say which pixels those are. -/

namespace Sys2Proof.Machine

section shapes
variable {s : State} {i : Instr} {ps : List (Int × Int)}

/-- Every shape command plots the pixels of its rule and answers. -/
theorem exec_of_shapePixels (hconf : s.configured = true) (hi : Claims.shapePixels s i = some ps) :
    exec i s = .next (respond (plot s ps)) := by
  -- only the seven shapes have such a list
  cases i <;> simp only [Claims.shapePixels, reduceCtorEq, Option.some.injEq] at hi <;>
    (subst hi; unfold exec; exact command_of_configured hconf _)

/-- After plotting and answering, a pixel is on when it was on or was plotted (R139). -/
theorem readPixel_respond_plot (hwf : s.fb.wf = true) {x y : Int} (hxy : inRange s.rows s.cols x y = true) :
    Claims.readPixel (respond (plot s ps)) x y = true ↔ Claims.readPixel s x y = true ∨ (x, y) ∈ ps := by
  rw [plot, paint, readPixel_respond_setFb, pixel_foldl_on ps hwf hxy, Bool.or_eq_true, decide_eq_true_iff]
  rfl

/-- What a shape command leaves behind whose rule writes the pixels with property `P`. -/
theorem exists_exec_of_shapePixels {P : Int → Int → Prop} (hconf : s.configured = true) (hwf : s.fb.wf = true)
    (hi : Claims.shapePixels s i = some ps) (hP : ∀ x y, (x, y) ∈ ps ↔ P x y) :
    ∃ t, exec i s = .next t ∧ OnlyFb s t ∧ t.response = some (okResponse s) ∧
      ∀ x y, inRange s.rows s.cols x y = true →
        (Claims.readPixel t x y = true ↔ Claims.readPixel s x y = true ∨ P x y) := by
  refine ⟨_, exec_of_shapePixels hconf hi, onlyFb_respond_setFb s _, rfl, fun x y hxy => ?_⟩
  rw [readPixel_respond_plot hwf hxy, hP]

end shapes

/-- A shape command whose rule writes no pixel is ignored. -/
theorem respond_plot_nil (s : State) : respond (plot s []) = Claims.ignored s := rfl

/-- Settles O38: both write the one pixel, on. -/
theorem pointIsSetLedOn : Obligations.PointIsSetLedOn := fun _ _ _ => rfl

end Sys2Proof.Machine

/-! PROOFS. DRAWLINE (43_shapes.md R131): the bounded walk of the model is the rule's unbounded loop, because after
`max(dx, dy)` turns the loop stands on the end point (log 15). -/

namespace Sys2Proof.Machine

theorem mem_span {lo hi x : Int} : x ∈ span lo hi ↔ lo ≤ x ∧ x ≤ hi := by
  simp only [span, List.bind_eq_flatMap, List.pure_def, List.mem_map, List.mem_flatMap, List.mem_range,
    List.mem_singleton]
  constructor
  · rintro ⟨k, ⟨i, hi, rfl⟩, rfl⟩; omega
  · rintro ⟨hlo, hhi⟩; exact ⟨x - lo, ⟨(x - lo).toNat, by omega, by omega⟩, by omega⟩

section walk
variable {dx dy sx sy x2 y2 : Int}

/-- At the end point the walk writes it and stops. -/
theorem lineWalk_at_end (n : Nat) (err : Int) :
    lineWalk dx dy sx sy x2 y2 (n + 1) x2 y2 err = [(x2, y2)] := by
  simp [lineWalk]

/-- Elsewhere the walk writes its pixel and makes one turn of the loop. -/
theorem lineWalk_succ (n : Nat) {x y : Int} (err : Int) (hne : ¬ (x = x2 ∧ y = y2)) :
    lineWalk dx dy sx sy x2 y2 (n + 1) x y err = (x, y) :: lineWalk dx dy sx sy x2 y2 n
      (if 2 * err > -dy then x + sx else x) (if 2 * err < dx then y + sy else y)
      ((if 2 * err > -dy then err - dy else err) + (if 2 * err < dx then dx else 0)) := by
  simp [lineWalk, hne]

/-- One turn of the rule's loop, in the walk's words. -/
theorem lineLoop_turn_ite {x y err : Int} {ps : List (Int × Int)} (hne : ¬ (x = x2 ∧ y = y2))
    (hrest : Claims.LineLoop dx dy sx sy x2 y2
      (if 2 * err > -dy then x + sx else x) (if 2 * err < dx then y + sy else y)
      ((if 2 * err > -dy then err - dy else err) + (if 2 * err < dx then dx else 0)) ps) :
    Claims.LineLoop dx dy sx sy x2 y2 x y err ((x, y) :: ps) :=
  .turn x y err _ _ _ _ ps hne (fun h => ⟨if_pos h, if_pos h⟩) (fun h => ⟨if_neg h, if_neg h⟩)
    (fun h => ⟨by rw [if_pos h], if_pos h⟩) (fun h => ⟨by rw [if_neg h, add_zero], if_neg h⟩) hrest

/-- The walk of a line no steeper than diagonal is the rule's loop.  With `n` columns and `q` rows left to go every
turn moves one column on, and the band for the accumulator makes `q = 0` when no column is left. -/
theorem lineLoop_lineWalk_of_flat (hdx : 0 < dx) (hdy : 0 ≤ dy) (hflat : dy ≤ dx) (n : Nat) {x y err q : Int}
    (hx : x2 = x + n * sx) (hy : y2 = y + q * sy) (herr : err = dx - dy + n * dy - q * dx)
    (hlo : -dy < 2 * err) (hhi : 2 * err < 3 * dx - 2 * dy) :
    Claims.LineLoop dx dy sx sy x2 y2 x y err (lineWalk dx dy sx sy x2 y2 (n + 1) x y err) := by
  by_cases hend : x = x2 ∧ y = y2
  · obtain ⟨rfl, rfl⟩ := hend
    rw [lineWalk_at_end]
    exact .stop err
  · rw [lineWalk_succ n err hend]
    refine lineLoop_turn_ite hend ?_
    cases n with
    | zero =>
      rw [Nat.cast_zero, zero_mul, add_zero] at hx herr
      have hq : q = 0 := by
        have hq1 : q < 1 := by nlinarith
        have hq0 : -1 < q := by nlinarith
        omega
      exact absurd ⟨hx.symm, by rw [hy, hq, zero_mul, add_zero]⟩ hend
    | succ n =>
      rw [if_pos hlo, if_pos hlo]
      push_cast at hx herr
      by_cases hrow : 2 * err < dx
      · rw [if_pos hrow, if_pos hrow]
        exact lineLoop_lineWalk_of_flat hdx hdy hflat n (q := q - 1) (by linarith) (by linarith)
          (by linarith) (by linarith) (by linarith)
      · rw [if_neg hrow, if_neg hrow]
        have hlt : dy < dx := by
          by_contra
          linarith
        exact lineLoop_lineWalk_of_flat hdx hdy hflat n (q := q) (by linarith) hy
          (by linarith) (by linarith) (by linarith)

/-- The rule's loop with the two axes exchanged is the loop again, the accumulator negated. -/
theorem lineLoop_swap {x y err : Int} {ps : List (Int × Int)}
    (h : Claims.LineLoop dx dy sx sy x2 y2 x y err ps) :
    Claims.LineLoop dy dx sy sx y2 x2 y x (-err) (ps.map Prod.swap) := by
  induction h with
  | stop err => exact .stop _
  | turn x y err x' y' err1 err2 ps notEnd xYes xNo yYes yNo rest ih =>
    refine .turn y x (-err) y' x' (err1 - err2 - err) (-err2) _ (fun h => notEnd h.symm)
      (fun h => ?_) (fun h => ?_) (fun h => ?_) (fun h => ?_) ih
    · obtain ⟨herr, hy⟩ := yYes (by linarith)
      exact ⟨by linarith, hy⟩
    · obtain ⟨herr, hy⟩ := yNo (by linarith)
      exact ⟨by linarith, hy⟩
    · obtain ⟨herr, hx⟩ := xYes (by linarith)
      exact ⟨by linarith, hx⟩
    · obtain ⟨herr, hx⟩ := xNo (by linarith)
      exact ⟨by linarith, hx⟩

/-- The walk with the two axes exchanged writes the exchanged pixels, the accumulator negated. -/
theorem lineWalk_swap (n : Nat) (x y err : Int) :
    (lineWalk dx dy sx sy x2 y2 n x y err).map Prod.swap = lineWalk dy dx sy sx y2 x2 n y x (-err) := by
  induction n generalizing x y err with
  | zero => rfl
  | succ n ih =>
    by_cases hend : x = x2 ∧ y = y2
    · obtain ⟨rfl, rfl⟩ := hend
      rw [lineWalk_at_end, lineWalk_at_end]
      rfl
    · have hx : 2 * -err < dy ↔ 2 * err > -dy := by omega
      have hy : 2 * -err > -dx ↔ 2 * err < dx := by omega
      rw [lineWalk_succ n err hend, lineWalk_succ n (-err) fun h => hend h.symm, List.map_cons, ih]
      simp only [hx, hy, Prod.swap_prod_mk]
      congr 2
      split_ifs <;> ring

/-- The walk of every line that is not one point is the rule's loop. -/
theorem lineLoop_lineWalk (x1 y1 : Int) (hne : ¬ (x1 = x2 ∧ y1 = y2)) :
    Claims.LineLoop |x2 - x1| |y2 - y1| (if x1 < x2 then 1 else -1) (if y1 < y2 then 1 else -1) x2 y2
      x1 y1 (|x2 - x1| - |y2 - y1|)
      (lineWalk |x2 - x1| |y2 - y1| (if x1 < x2 then 1 else -1) (if y1 < y2 then 1 else -1) x2 y2
        ((max |x2 - x1| |y2 - y1|).toNat + 1) x1 y1 (|x2 - x1| - |y2 - y1|)) := by
  have hx : x2 = x1 + |x2 - x1| * (if x1 < x2 then 1 else -1) := by grind
  have hy : y2 = y1 + |y2 - y1| * (if y1 < y2 then 1 else -1) := by grind
  have hdx := abs_nonneg (x2 - x1)
  have hdy := abs_nonneg (y2 - y1)
  have hpos : 0 < |x2 - x1| ∨ 0 < |y2 - y1| := by
    rw [abs_pos, abs_pos]
    omega
  generalize |x2 - x1| = dx at *
  generalize |y2 - y1| = dy at *
  obtain hflat | hsteep := le_total dy dx
  · have hpos : 0 < dx := by omega
    obtain ⟨n, rfl⟩ := Int.eq_ofNat_of_zero_le hdx
    rw [max_eq_left hflat, Int.toNat_natCast]
    exact lineLoop_lineWalk_of_flat hpos hdy hflat n hx hy (by ring) (by linarith) (by linarith)
  · have hpos : 0 < dy := by omega
    obtain ⟨n, rfl⟩ := Int.eq_ofNat_of_zero_le hdy
    have hswapped := lineLoop_lineWalk_of_flat (err := n - dx) hpos hdx hsteep n hy hx (by ring)
      (by linarith) (by linarith)
    simpa only [lineWalk_swap, neg_sub, max_eq_right hsteep, Int.toNat_natCast]
      using lineLoop_swap hswapped

end walk

/-- The model's pixels of a line are those of the rule. -/
theorem lineDraws_linePixels (R C : Nat) (x1 y1 x2 y2 : Int) :
    Claims.LineDraws R C x1 y1 x2 y2 (linePixels R C x1 y1 x2 y2) := by
  refine ⟨fun hout => ?_, fun h1 h2 => ⟨?_, fun hne => ?_⟩⟩
  · rw [linePixels, if_pos]
    simpa [imp_iff_not_or] using hout
  · rintro rfl x y
    simp only [linePixels, h1, h2, Bool.not_true, Bool.or_self, Bool.false_eq_true, if_false, if_true,
      List.mem_map, mem_span, Prod.mk.injEq]
    grind
  · have hloop := lineLoop_lineWalk (x2 := x2) (y2 := y2) x1 y1 fun h => hne h.2
    simpa only [linePixels, h1, h2, hne, Bool.not_true, Bool.or_self, Bool.false_eq_true, if_false]
      using hloop

/-- Settles O39: DRAWLINE plots the model's pixels of the line, which are the rule's. -/
theorem drawLineDrawsTheLoop : Obligations.DrawLineDrawsTheLoop := by
  intro s x1 y1 x2 y2 hconf hwf
  obtain ⟨t, hexec, hframe, hresponse, hpixels⟩ :=
    exists_exec_of_shapePixels (i := .drawLine x1 y1 x2 y2) hconf hwf rfl fun _ _ => Iff.rfl
  exact ⟨t, _, hexec, hframe, hresponse, lineDraws_linePixels .., hpixels⟩

end Sys2Proof.Machine

/-! PROOFS. DRAWTRI and DRAWQUAD (43_shapes.md R132, R133): plotting one list of pixels after another is plotting the
joined list, and a line is the same pixels in every state with the same grid. -/

namespace Sys2Proof.Machine

section polygons
variable {R C : Nat} {x1 y1 x2 y2 x3 y3 x4 y4 : Int}

theorem triPixels_of_not_inRange (h : inRange R C x3 y3 = false) : triPixels R C x1 y1 x2 y2 x3 y3 = [] := by
  simp [triPixels, h]

theorem triPixels_of_inRange (h : inRange R C x3 y3 = true) : triPixels R C x1 y1 x2 y2 x3 y3 =
    linePixels R C x1 y1 x2 y2 ++ linePixels R C x2 y2 x3 y3 ++ linePixels R C x3 y3 x1 y1 := by
  simp [triPixels, h]

theorem quadPixels_of_not_inRange (h : inRange R C x4 y4 = false) :
    quadPixels R C x1 y1 x2 y2 x3 y3 x4 y4 = [] := by
  simp [quadPixels, h]

theorem quadPixels_of_inRange (h : inRange R C x4 y4 = true) : quadPixels R C x1 y1 x2 y2 x3 y3 x4 y4 =
    linePixels R C x1 y1 x2 y2 ++ linePixels R C x2 y2 x3 y3 ++ linePixels R C x3 y3 x4 y4 ++
      linePixels R C x4 y4 x1 y1 := by
  simp [quadPixels, h]

end polygons

section lines
variable {s : State}

theorem plot_append (s : State) (ps qs : List (Int × Int)) : plot s (ps ++ qs) = plot (plot s ps) qs := by
  simp only [plot, paint, List.map_append, List.foldl_append]
  rfl

theorem execDrawLine_of_configured (hconf : s.configured = true) (x1 y1 x2 y2 : Slot) :
    exec (.drawLine x1 y1 x2 y2) s =
      .next (respond (plot s (linePixels s.rows s.cols x1.toInt y1.toInt x2.toInt y2.toInt))) :=
  exec_of_shapePixels hconf rfl

/-- A DRAWLINE after a command that plotted `ps` leaves what one command would that plots both. -/
theorem execDrawLine_respond_plot (hconf : s.configured = true) (ps : List (Int × Int)) (x1 y1 x2 y2 : Slot) :
    exec (.drawLine x1 y1 x2 y2) (respond (plot s ps)) =
      .next (respond (plot s (ps ++ linePixels s.rows s.cols x1.toInt y1.toInt x2.toInt y2.toInt))) := by
  rw [plot_append]
  exact execDrawLine_of_configured (s := respond (plot s ps)) hconf x1 y1 x2 y2

end lines

/-- Settles O42: the three DRAWLINEs plot the joined list of their pixels. -/
theorem drawTriIsThreeLines : Obligations.DrawTriIsThreeLines := by
  intro s x1 y1 x2 y2 x3 y3 hconf
  have htri := exec_of_shapePixels (i := .drawTri x1 y1 x2 y2 x3 y3) hconf rfl
  refine ⟨fun hout => ?_, fun hin => ⟨_, htri, ?_⟩⟩
  · rw [htri, triPixels_of_not_inRange hout, respond_plot_nil]
  · simp only [Claims.runAll, execDrawLine_of_configured hconf, execDrawLine_respond_plot hconf,
      triPixels_of_inRange hin]

/-- Settles O43: the four DRAWLINEs plot the joined list of their pixels. -/
theorem drawQuadIsFourLines : Obligations.DrawQuadIsFourLines := by
  intro s x1 y1 x2 y2 x3 y3 x4 y4 hconf
  have hquad := exec_of_shapePixels (i := .drawQuad x1 y1 x2 y2 x3 y3 x4 y4) hconf rfl
  refine ⟨fun hout => ?_, fun hin => ⟨_, hquad, ?_⟩⟩
  · rw [hquad, quadPixels_of_not_inRange hout, respond_plot_nil]
  · simp only [Claims.runAll, execDrawLine_of_configured hconf, execDrawLine_respond_plot hconf,
      quadPixels_of_inRange hin]

end Sys2Proof.Machine

/-! PROOFS. DRAWRECT (43_shapes.md R134): the four border lines are the box without its inside, which counts them. -/

namespace Sys2Proof.Machine

theorem mem_rectPixels {x y w h px py : Int} : (px, py) ∈ rectPixels x y w h ↔ Claims.OnRect x y w h px py := by
  unfold rectPixels Claims.OnRect
  split_ifs with hsmall
  · simp only [List.not_mem_nil, false_iff]
    omega
  · simp only [List.mem_append, List.mem_map, mem_span, Prod.mk.injEq]
    constructor
    · rintro (((⟨i, hi, rfl, rfl⟩ | ⟨i, hi, rfl, rfl⟩) | ⟨j, hj, rfl, rfl⟩) | ⟨j, hj, rfl, rfl⟩) <;> omega
    · rintro ⟨hw, hh, hx0, hx1, hy0, hy1, rfl | rfl | rfl | rfl⟩
      · exact .inl (.inr ⟨py - y, by omega⟩)
      · exact .inr ⟨py - y, by omega⟩
      · exact .inl (.inl (.inl ⟨px - x, by omega⟩))
      · exact .inl (.inl (.inr ⟨px - x, by omega⟩))

/-- The border is the box without the box one pixel further in. -/
theorem toFinset_rectPixels {x y w h : Int} (hw : 1 ≤ w) (hh : 1 ≤ h) : (rectPixels x y w h).toFinset =
    (Finset.Icc x (x + w - 1) ×ˢ Finset.Icc y (y + h - 1)) \
      (Finset.Icc (x + 1) (x + w - 2) ×ˢ Finset.Icc (y + 1) (y + h - 2)) := by
  ext ⟨px, py⟩
  simp only [List.mem_toFinset, mem_rectPixels, Claims.OnRect, Finset.mem_sdiff, Finset.mem_product,
    Finset.mem_Icc]
  omega

/-- The size of the border: that of the box less that of its inside. -/
theorem card_rectPixels {x y w h : Int} (hw : 1 ≤ w) (hh : 1 ≤ h) :
    ((rectPixels x y w h).toFinset.card : Int) = w * h - max (w - 2) 0 * max (h - 2) 0 := by
  have hinside : Finset.Icc (x + 1) (x + w - 2) ×ˢ Finset.Icc (y + 1) (y + h - 2) ⊆
      Finset.Icc x (x + w - 1) ×ˢ Finset.Icc y (y + h - 1) :=
    Finset.product_subset_product (Finset.Icc_subset_Icc (by omega) (by omega))
      (Finset.Icc_subset_Icc (by omega) (by omega))
  rw [toFinset_rectPixels hw hh, Finset.cast_card_sdiff hinside]
  simp only [Finset.card_product, Int.card_Icc, Nat.cast_mul, Int.ofNat_toNat]
  congr 2 <;> omega

/-- Settles O44: the pixels of the border, and their number where both extents are at least 2 and where one is 1. -/
theorem drawRectDrawsTheBorder : Obligations.DrawRectDrawsTheBorder := by
  refine ⟨fun s x y w h hconf hwf => ?_, fun x y w h hw hh => ?_⟩
  · exact exists_exec_of_shapePixels hconf hwf rfl fun _ _ => mem_rectPixels
  · rw [card_rectPixels hw hh]
    split_ifs with hboth
    · rw [max_eq_left (by omega), max_eq_left (by omega)]
      ring
    · obtain rfl | rfl : w = 1 ∨ h = 1 := by omega
      · simp [hh]
      · simp [hw]

end Sys2Proof.Machine

/-! PROOFS. DRAWELLIPSE and DRAWCIRCLE (43_shapes.md R136, R135): the integer form of the rounded root, which the model
searches for, is the rounded real root of the rule. -/

namespace Sys2Proof.Machine

/-- The search finds the `r` below which exactly the candidates `n >= 1` with `(2n-1)^2 * q <= N` lie. -/
theorem rootBelow_eq {q N r : Int} (hr : 0 ≤ r) (bound : Nat) (hbound : r ≤ bound)
    (hcand : ∀ n : Int, 1 ≤ n → ((2 * n - 1) ^ 2 * q ≤ N ↔ n ≤ r)) : rootBelow q N bound = r := by
  induction bound with
  | zero => exact le_antisymm hr hbound
  | succ m ih =>
    rw [rootBelow, if_congr (hcand _ (by omega)) rfl rfl]
    split_ifs with hm
    · push_cast at hbound
      omega
    · exact ih (by omega)

section root
variable {along across delta : Int}

/-- The radicand of R136 with its denominators cleared. -/
theorem radicand_eq (halong : 1 ≤ along) :
    ((across : ℝ) ^ 2 / 4) * (1 - (delta : ℝ) ^ 2 / ((along : ℝ) ^ 2 / 4)) =
      ((across ^ 2 * (along ^ 2 - 4 * delta ^ 2) : Int) : ℝ) / (4 * (along : ℝ) ^ 2) := by
  have hne : (along : ℝ) ≠ 0 := by exact_mod_cast (by omega : along ≠ 0)
  push_cast
  field_simp

theorem roundedRoot_nonneg : 0 ≤ Claims.roundedRoot along across delta :=
  Int.floor_nonneg.mpr (by positivity)

/-- The candidates that the rounded root is not below, in integers: `n - 1/2 <= s` squared (R136). -/
theorem le_roundedRoot_iff (halong : 1 ≤ along) {n : Int} (hn : 1 ≤ n) :
    n ≤ Claims.roundedRoot along across delta ↔
      (2 * n - 1) ^ 2 * along ^ 2 ≤ across ^ 2 * (along ^ 2 - 4 * delta ^ 2) := by
  have hn' : (1 : ℝ) ≤ n := by exact_mod_cast hn
  have hpos : (0 : ℝ) < 4 * (along : ℝ) ^ 2 := by
    have : (1 : ℝ) ≤ along := by exact_mod_cast halong
    positivity
  rw [Claims.roundedRoot, Int.le_floor, ← sub_le_iff_le_add, Real.le_sqrt' (by linarith), radicand_eq halong,
    le_div_iff₀ hpos, ← Int.cast_le (R := ℝ)]
  push_cast
  ring_nf

/-- The rounded root is at most half the axis across, rounded up. -/
theorem roundedRoot_le (halong : 1 ≤ along) (hacross : 1 ≤ across) :
    Claims.roundedRoot along across delta ≤ (across + 1) / 2 := by
  by_contra hgt
  have hn : (across + 1) / 2 + 1 ≤ Claims.roundedRoot along across delta := by omega
  rw [le_roundedRoot_iff halong (by omega)] at hn
  have hsq : across ^ 2 < (2 * ((across + 1) / 2 + 1) - 1) ^ 2 :=
    pow_lt_pow_left₀ (by omega) (by omega) two_ne_zero
  nlinarith [sq_nonneg (across * delta), pow_pos (show 0 < along by omega) 2]

/-- The model's offset is the rule's rounded root (R136). -/
theorem ellipseOffset_eq_roundedRoot (halong : 1 ≤ along) (hacross : 1 ≤ across) :
    ellipseOffset along across delta = Claims.roundedRoot along across delta := by
  have hle := roundedRoot_le (delta := delta) halong hacross
  exact rootBelow_eq roundedRoot_nonneg _ (by omega) fun n hn => (le_roundedRoot_iff halong hn).symm

end root

/-- The range of a pass is where the radicand is not negative (R136). -/
theorem mem_span_half_axis {c axis v : Int} (haxis : 0 ≤ axis) :
    v ∈ span (c - axis / 2) (c + axis / 2) ↔ 4 * (v - c) ^ 2 ≤ axis ^ 2 := by
  have hsq : 4 * (v - c) ^ 2 = (2 * (v - c)) ^ 2 := by ring
  rw [mem_span, hsq, sq_le_sq, abs_of_nonneg haxis, abs_le]
  omega

theorem ellipsePixels_of_lt {h k a b : Int} (hsmall : a < 1 ∨ b < 1) : ellipsePixels h k a b = [] :=
  if_pos hsmall

/-- A pass over columns writes, in each, the two pixels mirrored in row `k`. -/
theorem mem_columnPass {xs : List Int} {root : Int → Int} {k x y : Int} :
    (x, y) ∈ xs.flatMap (fun v => [(v, k + root v), (v, k - root v)]) ↔
      x ∈ xs ∧ (y = k + root x ∨ y = k - root x) := by
  simp only [List.mem_flatMap, List.mem_cons, List.not_mem_nil, or_false, Prod.mk.injEq, ← and_or_left,
    and_left_comm (b := x = _), exists_eq_left']

/-- A pass over rows writes, in each, the two pixels mirrored in column `h`. -/
theorem mem_rowPass {ys : List Int} {root : Int → Int} {h x y : Int} :
    (x, y) ∈ ys.flatMap (fun v => [(h + root v, v), (h - root v, v)]) ↔
      y ∈ ys ∧ (x = h + root y ∨ x = h - root y) := by
  simp only [List.mem_flatMap, List.mem_cons, List.not_mem_nil, or_false, Prod.mk.injEq, ← or_and_right,
    ← and_assoc, exists_eq_right']

/-- The pixels of the two integer passes are those of the two passes over the reals. -/
theorem mem_ellipsePixels {h k a b x y : Int} :
    (x, y) ∈ ellipsePixels h k a b ↔ Claims.OnEllipse h k a b x y := by
  by_cases hsmall : a < 1 ∨ b < 1
  · rw [ellipsePixels_of_lt hsmall, Claims.OnEllipse]
    simp only [List.not_mem_nil, false_iff]
    omega
  · obtain ⟨ha, hb⟩ : 1 ≤ a ∧ 1 ≤ b := by omega
    rw [ellipsePixels, if_neg hsmall, List.mem_append, mem_columnPass, mem_rowPass,
      mem_span_half_axis (by omega), mem_span_half_axis (by omega), ellipseOffset_eq_roundedRoot ha hb,
      ellipseOffset_eq_roundedRoot hb ha, Claims.OnEllipse]
    simp only [ha, hb, true_and]

/-- Settles O45: the pixels of the integer passes are those of the rule's. -/
theorem drawEllipseIsTheClosedForm : Obligations.DrawEllipseIsTheClosedForm := by
  intro s h k a b hconf hwf
  exact exists_exec_of_shapePixels hconf hwf rfl fun _ _ => mem_ellipsePixels

/-- Settles O47: DRAWCIRCLE plots the pixels of the ellipse with both axes `2r`, none for `r < 1`. -/
theorem drawCircleIsAnEllipse : Obligations.DrawCircleIsAnEllipse := by
  intro s h k r hconf hwf
  have hcircle := exec_of_shapePixels (i := .drawCircle h k r) hconf rfl
  refine ⟨fun a ha => ?_, fun hr => ?_, ?_⟩
  · rw [hcircle, exec_of_shapePixels (i := .drawEllipse h k a a) hconf rfl, ha]
  · rw [hcircle, ellipsePixels_of_lt (by omega), respond_plot_nil]
  · exact exists_exec_of_shapePixels hconf hwf rfl fun _ _ => mem_ellipsePixels

end Sys2Proof.Machine

/-! PROOFS. What the two byte loops of the ScrollEngine do to the bytes outside a module-row and to the pixels
(44_scroll.md R162, R165), and SHIFTROW (R161). -/

namespace Sys2Proof.Machine

section bits
variable (v : Byte) {b : Nat}

/-- A right shift with a carry into bit 7 moves every other bit down by one. -/
theorem bit_shift_or_carry (c : Prop) [Decidable c] (hb : b < 8) :
    bit (v >>> 1 ||| if c then 0x80 else 0) b = if b = 7 then decide c else bit v (b + 1) := by
  by_cases hc : c <;> simp only [hc, if_true, if_false, bit] <;> interval_cases b <;> simp

theorem bit_or_0x80 (hb : b < 8) : bit (v ||| 0x80) b = (decide (b = 7) || bit v b) := by
  interval_cases b <;> simp [bit]

end bits

section moduleRow
variable {R C m : Nat} {x y : Int} {fb : Memory}

theorem pixel_of_inRange (h : inRange R C x y = true) :
    pixel R C fb x y = bit (fb.read (mapIndex C x y)) (mapBit x) := if_pos h

theorem pixel_of_not_inRange (h : inRange R C x y ≠ true) : pixel R C fb x y = false := if_neg h

/-- The module that holds a pixel's byte, and the byte's pixel-row in it. -/
theorem mapIndex_div_mod (h : inRange R C x y = true) :
    mapIndex C x y / 8 = x.toNat / 8 + y.toNat / 8 * C ∧ mapIndex C x y % 8 = (y % 8).toNat := by
  obtain ⟨-, -, hy, -⟩ := inRange_iff.mp h
  rw [mapIndex_eq h, moduleIndex]
  omega

/-- A pixel's byte belongs to module-row `m` just when the pixel does. -/
theorem mapIndex_mem_moduleRow_iff (h : inRange R C x y = true) :
    m * C ≤ mapIndex C x y / 8 ∧ mapIndex C x y / 8 < m * C + C ↔ y / 8 = m := by
  obtain ⟨hx0, hx1, hy0, -⟩ := inRange_iff.mp h
  have hmc : x.toNat / 8 < C := by omega
  have hrow : (x.toNat / 8 + y.toNat / 8 * C) / C = y.toNat / 8 := by
    rw [Nat.add_mul_div_right _ _ (by omega), Nat.div_eq_of_lt hmc, Nat.zero_add]
  have hdiv := Nat.div_eq_iff (x := x.toNat / 8 + y.toNat / 8 * C) (y := m) (show 0 < C by omega)
  rw [(mapIndex_div_mod h).1]
  omega

/-- A pixel's byte belongs to the last module of module-row `m` just when the pixel does. -/
theorem mapIndex_div_eq_last_iff (h : inRange R C x y = true) :
    mapIndex C x y / 8 = C - 1 + m * C ↔ 8 * (C : Int) ≤ x + 8 ∧ y / 8 = m := by
  obtain ⟨hx0, hx1, hy0, -⟩ := inRange_iff.mp h
  have hrow := mapIndex_mem_moduleRow_iff (m := m) h
  have hdiv := (mapIndex_div_mod h).1
  by_cases hm : y.toNat / 8 = m
  · rw [hm] at hdiv
    omega
  · omega

/-- `ShiftRow` writes no byte outside its module-row (R160). -/
theorem read_shiftRowFb_of_outside (hwf : fb.wf = true) {a : Nat}
    (ha : a < 8 * (m * C) ∨ 8 * ((m + 1) * C) ≤ a) : (shiftRowFb C m fb).read a = fb.read a := by
  rw [Nat.succ_mul m] at ha
  rw [read_shiftRowFb hwf, if_neg (by omega)]

/-- `ShiftRow` moves the pixels of its module-row one column left, a pixel off following from the right (R165). -/
theorem pixel_shiftRowFb (hwf : fb.wf = true) (h : inRange R C x y = true) :
    pixel R C (shiftRowFb C m fb) x y =
      if y / 8 = m then pixel R C fb (x + 1) y else pixel R C fb x y := by
  rw [pixel_of_inRange h, read_shiftRowFb hwf]
  simp only [mapIndex_mem_moduleRow_iff h]
  by_cases hm : y / 8 = m
  · obtain ⟨hx0, hx1, hy0, hy1⟩ := inRange_iff.mp h
    have hb := mapBit_eq_emod x
    rw [if_pos hm, if_pos hm, bit_shift_or_carry _ _ (mapBit_lt x)]
    by_cases hx : x % 8 = 7
    · rw [if_pos (by omega)]
      have hrow := (mapIndex_mem_moduleRow_iff h).mpr hm
      have hlast := mapIndex_div_eq_last_iff (m := m) h
      by_cases h' : inRange R C (x + 1) y = true
      · obtain ⟨hi, hb'⟩ := map_right_of_edge h h' hx
        obtain ⟨-, hx1', -, -⟩ := inRange_iff.mp h'
        rw [pixel_of_inRange h', hi, hb']
        have hcarry : mapIndex C x y / 8 + 1 < m * C + C := by omega
        simp [hcarry]
      · rw [pixel_of_not_inRange h']
        rw [inRange_iff] at h'
        have hcarry : ¬ mapIndex C x y / 8 + 1 < m * C + C := by omega
        simp [hcarry]
    · have h' : inRange R C (x + 1) y = true := inRange_iff.mpr (by omega)
      obtain ⟨hi, hb'⟩ := map_right_of_inside h h' hx
      rw [if_neg (by omega), pixel_of_inRange h', hi, hb']
  · rw [if_neg hm, if_neg hm, pixel_of_inRange h]

end moduleRow

/-- An operand outside `0..R-1` names no module-row. -/
theorem moduleRowOk_of_outside {R : Nat} {mr : Int} (h : mr < 0 ∨ (R : Int) ≤ mr) : ¬ moduleRowOk R mr = true := by
  rw [moduleRowOk_iff]
  omega

theorem moduleRowOk_natCast {R m : Nat} (hlt : m < R) : moduleRowOk R m = true :=
  moduleRowOk_iff.mpr (by omega)

section shiftRow
variable {s : State} {mr : Slot}

theorem execShiftRow_of_outside (hconf : s.configured = true) (h : mr.toInt < 0 ∨ (s.rows : Int) ≤ mr.toInt) :
    execShiftRow mr s = .next (Claims.ignored s) :=
  command_eq_of_effect_eq hconf (if_neg (moduleRowOk_of_outside h))

theorem execShiftRow_of_inside (hconf : s.configured = true) {m : Nat} (hm : mr.toInt = m) (hlt : m < s.rows) :
    execShiftRow mr s = .next (respond (emit (s.setFb (shiftRowFb s.cols m s.fb)) [.delay s.scrollDelay])) := by
  refine command_eq_of_effect_eq hconf ?_
  rw [signed, hm, if_pos (moduleRowOk_natCast hlt), Int.toNat_natCast, shiftModuleRow]

end shiftRow

/-- Settles O48: the net shift of R165 on the bytes, and from it on the pixels. -/
theorem shiftRowNetEffect : Obligations.ShiftRowNetEffect := by
  intro s mr hconf hwf
  refine ⟨execShiftRow_of_outside hconf, fun m hm hlt => ⟨_, execShiftRow_of_inside hconf hm hlt,
    onlyFbAndTrace_respond_emit s _ _, rfl, rfl, rfl, fun mc r hmc hr => ?_,
    fun a => read_shiftRowFb_of_outside hwf, fun x y hxy hy => ?_⟩⟩
  · have hrow : m * s.cols ≤ (8 * (mc + m * s.cols) + r) / 8 ∧
      (8 * (mc + m * s.cols) + r) / 8 < m * s.cols + s.cols := by omega
    have hnext : (8 * (mc + m * s.cols) + r) / 8 + 1 < m * s.cols + s.cols ↔ mc + 1 < s.cols := by omega
    have hright : 8 * (mc + m * s.cols) + r + 8 = 8 * (mc + 1 + m * s.cols) + r := by omega
    refine (read_shiftRowFb hwf _).trans ?_
    rw [if_pos hrow, hright]
    simp only [hnext, bit]
  · refine (pixel_shiftRowFb hwf hxy).trans ?_
    rw [if_pos hy]
    split_ifs with hx
    · rfl
    · exact pixel_of_not_inRange (by rw [Ne, inRange_iff]; omega)

end Sys2Proof.Machine

/-! PROOFS. SCROLLGLYPH and SCROLLCHAR (44_scroll.md R163, R164): the FrameBuffer one column step leaves, the run of the
steps as one list of events, and the pixels after each step. -/

namespace Sys2Proof.Machine

/-- The FrameBuffer after one column step: `ShiftRow`, then `Inject` (R163). -/
def columnFb (p : Params) (C m : Nat) (f : Font) (fb : Memory) (g : Byte) : Memory :=
  (List.range (fontRows f)).foldl (injectBit p C m g f) (shiftRowFb C m fb)

/-- The FrameBuffer of `s` after the first `k` of the columns are scrolled into module-row `m`. -/
def scrolledFb (s : State) (m : Nat) (columns : List Byte) (k : Nat) : Memory :=
  (columns.take k).foldl (columnFb s.params s.cols m s.font) s.fb

section columnFb
variable {p : Params} {R C m : Nat} {f : Font} {fb : Memory} {g : Byte} {x y : Int}

theorem fontRows_le (f : Font) : fontRows f ≤ 8 := by cases f <;> decide

theorem columnFb_wf (hwf : fb.wf = true) : (columnFb p C m f fb g).wf = true :=
  foldl_keeps (P := fun fb : Memory => fb.wf = true) (fun _ r hb => injectBit_wf hb g f r) _ (shiftRowFb_wf hwf)

/-- A column step writes no byte outside its module-row (R160, R162). -/
theorem read_columnFb_of_outside (hwf : fb.wf = true) (hC : 1 ≤ C) {a : Nat}
    (ha : a < 8 * (m * C) ∨ 8 * ((m + 1) * C) ≤ a) : (columnFb p C m f fb g).read a = fb.read a := by
  rw [columnFb, read_injectRows (shiftRowFb_wf hwf) g f (fontRows_le f), read_shiftRowFb_of_outside hwf ha]
  rw [Nat.succ_mul m] at ha
  exact if_neg (by omega)

/-- `Inject` switches on pixels of the last column of its module-row, by the bits of the column byte (R162). -/
theorem pixel_injectRows (hwf : fb.wf = true) (h : inRange R C x y = true) :
    pixel R C ((List.range (fontRows f)).foldl (injectBit p C m g f) fb) x y =
      (pixel R C fb x y || (decide (x + 1 = 8 * C ∧ y / 8 = m) &&
        (decide ((y % 8).toNat < fontRows f) && bit g (glyphBit p f (y % 8).toNat)))) := by
  obtain ⟨hx0, hx1, -, -⟩ := inRange_iff.mp h
  have hb := mapBit_eq_emod x
  have hlast : x + 1 = 8 * C ∧ y / 8 = m ↔ mapIndex C x y / 8 = C - 1 + m * C ∧ mapBit x = 7 := by
    rw [mapIndex_div_eq_last_iff h]
    omega
  rw [pixel_of_inRange h, pixel_of_inRange h, read_injectRows hwf g f (fontRows_le f), (mapIndex_div_mod h).2]
  simp only [hlast]
  by_cases hcol : (y % 8).toNat < fontRows f ∧ bit g (glyphBit p f (y % 8).toNat) = true
  · by_cases hmod : mapIndex C x y / 8 = C - 1 + m * C
    · rw [if_pos ⟨hmod, hcol⟩, bit_or_0x80 _ (mapBit_lt x), Bool.or_comm]
      simp [hmod, hcol]
    · simp [hmod]
  · have hoff : (decide ((y % 8).toNat < fontRows f) && bit g (glyphBit p f (y % 8).toNat)) = false := by
      rwa [Bool.eq_false_iff, Ne, Bool.and_eq_true, decide_eq_true_iff]
    rw [if_neg fun hset => hcol hset.2, hoff, Bool.and_false, Bool.or_false]

/-- The pixels after a column step: those of the module-row one column left, the column `g` at the right edge (R163). -/
theorem pixel_columnFb (hwf : fb.wf = true) (h : inRange R C x y = true) :
    pixel R C (columnFb p C m f fb g) x y =
      if y / 8 = m then
        if x + 1 < 8 * (C : Int) then pixel R C fb (x + 1) y
        else decide ((y % 8).toNat < fontRows f) && bit g (glyphBit p f (y % 8).toNat)
      else pixel R C fb x y := by
  obtain ⟨-, hx1, -, -⟩ := inRange_iff.mp h
  rw [columnFb, pixel_injectRows (shiftRowFb_wf hwf) h, pixel_shiftRowFb hwf h]
  by_cases hm : y / 8 = m
  · by_cases hx : x + 1 < 8 * (C : Int)
    · have hne : ¬ x + 1 = 8 * (C : Int) := by omega
      simp [hm, hx, hne]
    · have hlast : x + 1 = 8 * (C : Int) := by omega
      have hout : pixel R C fb (x + 1) y = false := pixel_of_not_inRange (by rw [Ne, inRange_iff]; omega)
      rw [hlast] at hout
      simp [hm, hlast, hout]
  · simp [hm]

end columnFb

section scrolledFb
variable {s : State} {m : Nat} {columns : List Byte}

theorem scrolledFb_zero : scrolledFb s m columns 0 = s.fb := rfl

theorem scrolledFb_succ {k : Nat} (hk : k < columns.length) : scrolledFb s m columns (k + 1) =
    columnFb s.params s.cols m s.font (scrolledFb s m columns k) columns[k] := by
  rw [scrolledFb, List.take_succ_eq_append_getElem hk, List.foldl_append]
  rfl

theorem scrolledFb_wf (hwf : s.fb.wf = true) (k : Nat) : (scrolledFb s m columns k).wf = true :=
  foldl_keeps (P := fun fb : Memory => fb.wf = true) (fun _ _ hb => columnFb_wf hb) _ hwf

theorem read_scrolledFb_of_outside (hwf : s.fb.wf = true) (hC : 1 ≤ s.cols) {a k : Nat}
    (hk : k ≤ columns.length) (ha : a < 8 * (m * s.cols) ∨ 8 * ((m + 1) * s.cols) ≤ a) :
    (scrolledFb s m columns k).read a = s.fb.read a := by
  induction k with
  | zero => rfl
  | succ k ih => rw [scrolledFb_succ hk, read_columnFb_of_outside (scrolledFb_wf hwf k) hC ha, ih (by omega)]

/-- The pixels after `k` column steps (R163). -/
theorem pixel_scrolledFb (hwf : s.fb.wf = true) {k : Nat} (hk : k ≤ columns.length) {x y : Int}
    (h : inRange s.rows s.cols x y = true) :
    pixel s.rows s.cols (scrolledFb s m columns k) x y =
      if y / 8 = m then Claims.scrolledPixel s columns k x y else Claims.readPixel s x y := by
  obtain ⟨hx0, hx1, hy0, hy1⟩ := inRange_iff.mp h
  induction k generalizing x with
  | zero => simp [scrolledFb_zero, Claims.scrolledPixel, Claims.readPixel, hx1]
  | succ k ih =>
    rw [scrolledFb_succ hk, pixel_columnFb (scrolledFb_wf hwf k) h]
    by_cases hm : y / 8 = m
    · rw [if_pos hm, if_pos hm]
      have hsum : x + 1 + k = x + (k + 1 : Nat) := by omega
      split_ifs with hx
      · -- the pixel came from its right neighbour
        rw [ih (by omega) (inRange_iff.mpr (by omega)) (by omega) hx, if_pos hm, Claims.scrolledPixel, hsum]
        rfl
      · -- the pixel stands in the last column, where the step put column `k`
        have hindex : (x + (k + 1 : Nat) - 8 * s.cols).toNat = k := by omega
        rw [Claims.scrolledPixel, if_neg (by omega), hindex, List.getElem?_eq_getElem hk, Option.getD_some]
    · rw [if_neg hm, if_neg hm, ih (by omega) h hx0 hx1, if_neg hm]

end scrolledFb

section columnSteps
variable {s : State} {m : Nat} {f : Font}

/-- What one column step does: a new FrameBuffer, one delay, a refresh (R163). -/
theorem columnStep_eq (g : Byte) : columnStep m f s g =
    refreshAll (emit (s.setFb (columnFb s.params s.cols m f s.fb g)) [.delay s.scrollDelay]) := rfl

theorem columnStep_eq_emit (g : Byte) : columnStep m f s g =
    emit (s.setFb (columnFb s.params s.cols m f s.fb g)) (.delay s.scrollDelay ::
      Claims.refreshPackets s.deviceCount (columnFb s.params s.cols m f s.fb g)) := by
  rw [columnStep_eq, refreshAll_eq, refreshEvents_eq_refreshPackets, emit_emit]
  rfl

theorem columnStep_fb (g : Byte) : (columnStep m f s g).fb = columnFb s.params s.cols m f s.fb g := by
  rw [columnStep_eq_emit]; rfl

theorem columnStep_deviceCount (g : Byte) : (columnStep m f s g).deviceCount = s.deviceCount := by
  rw [columnStep_eq_emit]; rfl

theorem digitsShow_columnStep (g : Byte) :
    Claims.DigitsShow s (columnStep m f s g) (columnStep m f s g).fb := by
  rw [columnStep_fb, columnStep_eq]
  exact digitsShow_refreshAll (emit (s.setFb (columnFb s.params s.cols m f s.fb g)) [.delay s.scrollDelay])

/-- What the chain shows after a second refresh does not depend on what it showed after the first. -/
theorem digitsShow_trans {t u : State} {fb fb' : Memory} (hn : t.deviceCount = s.deviceCount)
    (hst : Claims.DigitsShow s t fb) (htu : Claims.DigitsShow t u fb') : Claims.DigitsShow s u fb' := by
  intro d a
  rw [htu d a, hn, hst d a]
  split_ifs <;> rfl

/-- After at least one column step chip-select is high and the chain shows the FrameBuffer. -/
theorem line_foldl_columnStep (g : Byte) (gs : List Byte) :
    ((g :: gs).foldl (columnStep m f) s).line.cs = true ∧
      Claims.DigitsShow s ((g :: gs).foldl (columnStep m f) s) ((g :: gs).foldl (columnStep m f) s).fb := by
  induction gs generalizing g s with
  | nil =>
    rw [List.foldl_cons, List.foldl_nil]
    exact ⟨refreshAll_line_cs _, digitsShow_columnStep g⟩
  | cons g' gs ih =>
    rw [List.foldl_cons]
    obtain ⟨hcs, hdigits⟩ := ih (s := columnStep m f s g) g'
    exact ⟨hcs, digitsShow_trans (columnStep_deviceCount g) (digitsShow_columnStep g) hdigits⟩

/-- The first `k` column steps as one: the FrameBuffer they leave, and their events (R163). -/
theorem foldl_columnStep_take (columns : List Byte) {k : Nat} (hk : k ≤ columns.length) :
    (columns.take k).foldl (columnStep m s.font) s =
      emit (s.setFb (scrolledFb s m columns k)) ((List.range k).flatMap fun j => .delay s.scrollDelay ::
        Claims.refreshPackets s.deviceCount (scrolledFb s m columns (j + 1))) := by
  induction k with
  | zero => exact (emit_nil s).symm
  | succ k ih =>
    rw [List.take_succ_eq_append_getElem hk, List.foldl_append, ih (by omega), List.foldl_cons, List.foldl_nil,
      columnStep_eq_emit, List.range_succ, List.flatMap_append, List.flatMap_singleton, scrolledFb_succ hk,
      ← emit_emit]
    rfl

end columnSteps

/-- The FrameBuffers that the column steps leave, one after the other. -/
def scrolledFbs (s : State) (m : Nat) (columns : List Byte) : List Memory :=
  (List.range columns.length).map fun j => scrolledFb s m columns (j + 1)

section scrolledFbs
variable {s : State} {m : Nat} {columns : List Byte}

@[simp] theorem scrolledFbs_length : (scrolledFbs s m columns).length = columns.length := by
  rw [scrolledFbs, List.length_map, List.length_range]

theorem scrolledFbs_eq_nil_iff : scrolledFbs s m columns = [] ↔ columns = [] := by
  rw [← List.length_eq_zero_iff, scrolledFbs_length, List.length_eq_zero_iff]

theorem getElem_scrolledFbs {j : Nat} (hj : j < (scrolledFbs s m columns).length) :
    (scrolledFbs s m columns)[j] = scrolledFb s m columns (j + 1) := by
  simp only [scrolledFbs, List.getElem_map, List.getElem_range]

theorem getLast?_scrolledFbs :
    ((scrolledFbs s m columns).getLast?).getD s.fb = scrolledFb s m columns columns.length := by
  rw [scrolledFbs, List.getLast?_map, List.getLast?_range]
  split_ifs with h
  · rw [h]; rfl
  · rw [Option.map_some, Option.getD_some, Nat.sub_add_cancel (Nat.pos_of_ne_zero h)]

/-- All column steps as one: the last FrameBuffer, and for each of them a delay and its refresh (R163). -/
theorem foldl_columnStep : columns.foldl (columnStep m s.font) s =
    emit (s.setFb (scrolledFb s m columns columns.length)) ((scrolledFbs s m columns).flatMap fun fb =>
      .delay s.scrollDelay :: Claims.refreshPackets s.deviceCount fb) := by
  have h := foldl_columnStep_take (s := s) (m := m) columns (Nat.le_refl _)
  rw [List.take_length] at h
  rw [h, scrolledFbs, List.flatMap_map]

end scrolledFbs

section outcomes
variable {s : State} {c mr n : Slot} {pl : List Byte}

theorem scrolledColumns_eq_steppedColumns : scrolledColumns s.font pl = Claims.steppedColumns s pl := by
  cases h : s.font <;> simp [Claims.steppedColumns, scrolledColumns, h]

theorem execScrollGlyph_of_rejected (hconf : s.configured = true)
    (h : pl.length ≠ n.toNat ∨ mr.toInt < 0 ∨ (s.rows : Int) ≤ mr.toInt) :
    execScrollGlyph mr n pl s = .next (Claims.ignored s) := by
  refine command_eq_of_effect_eq hconf ?_
  by_cases hlen : pl.length = n.toNat
  · exact (if_pos hlen).trans (if_neg (moduleRowOk_of_outside (h.resolve_left (not_not_intro hlen))))
  · exact if_neg hlen

theorem execScrollGlyph_of_accepted (hconf : s.configured = true) (hlen : pl.length = n.toNat) :
    execScrollGlyph mr n pl s = .next (respond (scrollColumns s mr.toInt pl)) :=
  command_eq_of_effect_eq hconf (if_pos hlen)

theorem scrollColumns_natCast {m : Nat} (hlt : m < s.rows) :
    scrollColumns s m pl = (Claims.steppedColumns s pl).foldl (columnStep m s.font) s := by
  rw [scrollColumns, if_pos (moduleRowOk_natCast hlt), Int.toNat_natCast, scrolledColumns_eq_steppedColumns]

theorem execScrollChar_of_rejected (hconf : s.configured = true)
    (h : c.toNat > 255 ∨ mr.toInt < 0 ∨ (s.rows : Int) ≤ mr.toInt) :
    execScrollChar c mr s = .next (Claims.ignored s) := by
  refine command_eq_of_effect_eq hconf ?_
  by_cases hc : c.toNat > 255
  · exact if_pos hc
  · exact (if_neg hc).trans (if_neg (moduleRowOk_of_outside (h.resolve_left hc)))

theorem execScrollChar_of_accepted (hconf : s.configured = true) (hc : c.toNat ≤ 255)
    (hok : moduleRowOk s.rows mr.toInt = true) : execScrollChar c mr s = .next (respond
      (scrollColumns (emit s [.glyph (BitVec.ofNat 8 c.toNat) s.font]) mr.toInt
        (glyphSource s.params (BitVec.ofNat 8 c.toNat) s.font))) :=
  command_eq_of_effect_eq hconf ((if_neg hc.not_gt).trans (if_pos hok))

end outcomes

theorem glyphSource_length (p : Params) (c : Byte) (f : Font) : (glyphSource p c f).length = fontCols f := by
  rw [glyphSource, List.length_map, List.length_range]

/-- Settles O49: the FrameBuffers are those of `scrolledFbs`, and the run of the steps is one list of events. -/
theorem scrollGlyphScrolls : Obligations.ScrollGlyphScrolls := by
  intro s mr n pl hconf hwf hC
  refine ⟨execScrollGlyph_of_rejected hconf, fun m hlen hm hlt => ?_⟩
  have hexec := execScrollGlyph_of_accepted (mr := mr) hconf hlen
  rw [hm, scrollColumns_natCast hlt] at hexec
  generalize Claims.steppedColumns s pl = columns at hexec ⊢
  refine ⟨_, scrolledFbs s m columns, hexec, ?_, ?_, scrolledFbs_length, ?_, ?_, fun hnil => ?_, fun hne => ?_,
    fun j hj => ?_⟩
  · rw [foldl_columnStep]
    exact onlyFbAndTrace_respond_emit s _ _
  · rw [foldl_columnStep]
    rfl
  · rw [foldl_columnStep, getLast?_scrolledFbs]
    rfl
  · rw [foldl_columnStep]
    rfl
  · rw [scrolledFbs_eq_nil_iff.mp hnil]
    rfl
  · rw [Ne, scrolledFbs_eq_nil_iff] at hne
    obtain ⟨g, gs, rfl⟩ := List.exists_cons_of_ne_nil hne
    have hline := line_foldl_columnStep (s := s) (m := m) (f := s.font) g gs
    generalize (g :: gs).foldl (columnStep m s.font) s = u at hline ⊢
    exact hline
  · rw [getElem_scrolledFbs hj]
    rw [scrolledFbs_length] at hj
    exact ⟨fun x y => pixel_scrolledFb hwf hj, fun a => read_scrolledFb_of_outside hwf hC hj⟩

/-- Settles O50: both sides scroll the glyph's columns from the state with the GLYPH event. -/
theorem scrollCharFetchesAndScrolls : Obligations.ScrollCharFetchesAndScrolls := by
  intro s c mr hconf
  refine ⟨execScrollChar_of_rejected hconf, fun hc h0 hlt => ⟨_,
    execScrollChar_of_accepted hconf hc (moduleRowOk_iff.mpr ⟨h0, hlt⟩),
    execScrollGlyph_of_accepted hconf ?_, glyphSource_length _ _ _⟩⟩
  -- five or eight columns fit the count operand
  rw [glyphSource_length]
  cases s.font <;> rfl

end Sys2Proof.Machine

/-! PROOFS. DRAWCHAR and DRAWWORD (45_text.md R177, R178): what painting the dots of one glyph, and of a row of
glyphs, does to the pixels and to the bytes, and the states the two commands leave while CONFIGURED. -/

namespace Sys2Proof.Machine

/-- The dots of a row of characters, each `cols(f)` pixels right of the one before (R178). -/
def wordDots (p : Params) (f : Font) : List Byte → Int → Int → List Dot
  | [], _, _ => []
  | c :: cs, x, y => glyphDots p f (glyphSource p c f) x y ++ wordDots p f cs (x + fontCols f) y

/-- Placing characters is painting the dots of their row, with one GLYPH event each (R176, R178). -/
theorem placeChars_eq (s : State) (cs : List Byte) (x y : Int) : placeChars s cs x y =
    emit (s.setFb ((wordDots s.params s.font cs x y).foldl (setPixel s.rows s.cols) s.fb))
      (cs.map (.glyph · s.font)) := by
  induction cs generalizing s x with
  | nil => exact (emit_nil s).symm
  | cons c cs ih =>
    rw [placeChars, ih, wordDots, List.foldl_append, List.map_cons, ← List.singleton_append, ← emit_emit]
    rfl

section dots
variable {R C : Nat} {fb : Memory}

/-- Painting writes no byte without a painted pixel in range (R100). -/
theorem read_foldl_setPixel_of_ne {ds : List Dot} {a : Nat}
    (h : ∀ d ∈ ds, inRange R C d.1.1 d.1.2 = true → a ≠ mapIndex C d.1.1 d.1.2) :
    (ds.foldl (setPixel R C) fb).read a = fb.read a := by
  induction ds generalizing fb with
  | nil => rfl
  | cons d ds ih =>
    obtain ⟨hd, hds⟩ := List.forall_mem_cons.mp h
    rw [List.foldl_cons, ih hds]
    cases hin : inRange R C d.1.1 d.1.2 with
    | false => rw [setPixel_of_not_inRange hin]
    | true => exact read_setPixel_of_ne (hd hin)

variable {p : Params} {f : Font} {g : List Byte} {x y px py : Int}

theorem inBox_of_mem_glyphDots {d : Dot} (h : d ∈ glyphDots p f g x y) :
    Claims.InBox x y (fontCols f) (fontRows f) d.1.1 d.1.2 := by
  obtain ⟨col, row, hcol, hrow, rfl⟩ := mem_glyphDots.mp h
  dsimp only
  omega

/-- Painting a glyph sets every pixel of its box to the glyph's bit and no other pixel (R177). -/
theorem pixel_glyphDots (hwf : fb.wf = true) (hin : inRange R C px py = true) :
    pixel R C ((glyphDots p f g x y).foldl (setPixel R C) fb) px py =
      if Claims.InBox x y (fontCols f) (fontRows f) px py then
        bit ((g[(px - x).toNat]?).getD 0) (glyphBit p f (py - y).toNat)
      else pixel R C fb px py := by
  split_ifs with hbox
  · refine pixel_foldl_of_mem _ hwf hin (mem_glyphDots.mpr
      ⟨(px - x).toNat, (py - y).toNat, by omega, by omega, ?_⟩) fun d hd heq => ?_
    · rw [Int.toNat_of_nonneg (by omega), Int.toNat_of_nonneg (by omega), add_sub_cancel, add_sub_cancel]
    · -- the dot's column and row are those of the pixel
      obtain ⟨col, row, -, -, rfl⟩ := mem_glyphDots.mp hd
      obtain ⟨rfl, rfl⟩ := Prod.mk.inj heq
      simp only [add_sub_cancel_left, Int.toNat_natCast]
  · refine pixel_foldl_of_notMem _ hwf px py fun d hd heq => hbox ?_
    simpa only [heq] using inBox_of_mem_glyphDots hd

end dots

theorem fontCols_pos (f : Font) : 0 < fontCols f := by cases f <;> decide

section word
variable {p : Params} {f : Font} {x y w h px py : Int} {n : Nat}

/-- A row of `n + 1` boxes is its first box and the row of the others. -/
theorem inBox_succ_iff (hw : 0 ≤ w) : Claims.InBox x y ((n + 1 : Nat) * w) h px py ↔
    Claims.InBox x y w h px py ∨ Claims.InBox (x + w) y (n * w) h px py := by
  have hrow : 0 ≤ n * w := by positivity
  push_cast
  rw [add_mul, one_mul]
  omega

/-- Every dot of a word lies in its row of boxes (R178). -/
theorem inBox_of_mem_wordDots {cs : List Byte} {d : Dot} (hd : d ∈ wordDots p f cs x y) :
    Claims.InBox x y (cs.length * fontCols f) (fontRows f) d.1.1 d.1.2 := by
  induction cs generalizing x with
  | nil => cases hd
  | cons c cs ih =>
    rw [List.length_cons, inBox_succ_iff (by positivity)]
    exact (List.mem_append.mp hd).imp inBox_of_mem_glyphDots ih

/-- Painting a word sets every pixel of its row of boxes to the glyph bit of the character there, and no other
pixel (R178). -/
theorem pixel_wordDots {s : State} {cs : List Byte} {R C : Nat} {fb : Memory} (hwf : fb.wf = true)
    (hin : inRange R C px py = true) :
    pixel R C ((wordDots s.params s.font cs x y).foldl (setPixel R C) fb) px py =
      if Claims.InBox x y (cs.length * fontCols s.font) (fontRows s.font) px py then
        Claims.glyphPixel s ((cs[((px - x) / fontCols s.font).toNat]?).getD 0)
          ((px - x) % fontCols s.font).toNat (py - y).toNat
      else pixel R C fb px py := by
  induction cs generalizing x fb with
  | nil => exact (if_neg (by simp only [List.length_nil]; omega)).symm
  | cons c cs ih =>
    have hpos := fontCols_pos s.font
    rw [wordDots, List.foldl_append, ih (foldl_setPixel_wf _ hwf), pixel_glyphDots hwf hin, List.length_cons,
      if_congr (inBox_succ_iff (by positivity)) rfl rfl]
    by_cases hfirst : Claims.InBox x y (fontCols s.font) (fontRows s.font) px py
    · -- the pixel stands in the first box, and the others do not reach it
      rw [if_neg (by omega), if_pos hfirst, if_pos (.inl hfirst), Int.ediv_eq_zero_of_lt (by omega) (by omega),
        Int.emod_eq_of_lt (by omega) (by omega)]
      rfl
    · by_cases hrest : Claims.InBox (x + fontCols s.font) y (cs.length * fontCols s.font) (fontRows s.font) px py
      · -- seen from the second box the pixel is one character nearer, in the same column of its glyph
        have hshift : px - x = px - (x + fontCols s.font) + 1 * fontCols s.font := by ring
        have hdiv : 0 ≤ (px - (x + fontCols s.font)) / fontCols s.font :=
          Int.ediv_nonneg (by omega) (by omega)
        rw [if_pos hrest, if_pos (.inr hrest), hshift, Int.add_mul_emod_self_right,
          Int.add_mul_ediv_right _ _ (by omega), Int.toNat_add hdiv Int.one_nonneg]
        rfl
      · rw [if_neg hrest, if_neg hfirst, if_neg (not_or.mpr ⟨hfirst, hrest⟩)]

end word

section outcomes
variable {s : State} {c count x y : Slot} {pl : List Byte}

theorem execDrawChar_of_rejected (hconf : s.configured = true) (hc : c.toNat > 255) :
    execDrawChar c x y s = .next (Claims.ignored s) :=
  command_eq_of_effect_eq hconf (if_pos hc)

theorem execDrawChar_of_accepted (hconf : s.configured = true) (hc : c.toNat ≤ 255) :
    execDrawChar c x y s = .next (respond (placeChar s (BitVec.ofNat 8 c.toNat) x.toInt y.toInt)) :=
  command_eq_of_effect_eq hconf (if_neg hc.not_gt)

theorem execDrawWord_of_rejected (hconf : s.configured = true) (hlen : pl.length ≠ count.toNat) :
    execDrawWord count x y pl s = .next (Claims.ignored s) :=
  command_eq_of_effect_eq hconf (if_neg hlen)

theorem execDrawWord_of_accepted (hconf : s.configured = true) (hlen : pl.length = count.toNat) :
    execDrawWord count x y pl s = .next (respond (placeChars s pl x.toInt y.toInt)) :=
  command_eq_of_effect_eq hconf (if_pos hlen)

end outcomes

/-- GLYPH events do not touch the serial line (R29). -/
theorem foldl_lineStep_glyph (l : Line) (f : Font) (cs : List Byte) :
    (cs.map (.glyph · f)).foldl lineStep l = l := by
  induction cs with
  | nil => rfl
  | cons c cs ih => exact ih

/-- Settles O51: DRAWCHAR paints the dots of the glyph, which fill its box and nothing else. -/
theorem drawCharPlacesTheGlyph : Obligations.DrawCharPlacesTheGlyph := by
  intro s c x y hconf hwf
  refine ⟨execDrawChar_of_rejected hconf, fun hc => ⟨_, execDrawChar_of_accepted hconf hc,
    onlyFbAndTrace_respond_emit s _ _, rfl, rfl, rfl, fun px py => pixel_glyphDots hwf, fun a ha => ?_⟩⟩
  exact read_foldl_setPixel_of_ne fun d hd hin => ha _ _ hin (inBox_of_mem_glyphDots hd)

/-- Settles O52: DRAWWORD paints the dots of its characters, which fill their row of boxes and nothing else. -/
theorem drawWordPlacesTheWord : Obligations.DrawWordPlacesTheWord := by
  intro s count x y pl hconf hwf
  have haccepted := execDrawWord_of_accepted (count := count) (x := x) (y := y) (pl := pl) hconf
  rw [placeChars_eq] at haccepted
  refine ⟨execDrawWord_of_rejected hconf, fun hlen => ⟨_, haccepted hlen, onlyFbAndTrace_respond_emit s _ _, rfl,
    foldl_lineStep_glyph _ _ _, rfl, fun px py => pixel_wordDots hwf, fun a ha => ?_⟩⟩
  exact read_foldl_setPixel_of_ne fun d hd hin => ha _ _ hin (inBox_of_mem_wordDots hd)

end Sys2Proof.Machine

/-! PROOFS. Construction and configuration (46_config.md R190 to R194): bring-up as five broadcasts and a refresh, and
the states after CONSTRUCT while UNCONFIGURED and after the four setters while CONFIGURED. -/

namespace Sys2Proof.Machine

/-- The 13 packets of bring-up on `n` devices: five broadcasts, then the eight rows of a cleared FrameBuffer (R190). -/
def bringUpPackets (p : Params) (n : Nat) : List Event :=
  Claims.broadcastPacket n p.chip.regDisplayTest p.chip.valTestOff ++
  Claims.broadcastPacket n p.chip.regScanLimit p.chip.valScanAll ++
  Claims.broadcastPacket n p.chip.regDecode p.chip.valDecodeNone ++
  Claims.broadcastPacket n p.chip.regIntensity (BitVec.ofNat 8 p.initIntensity.val) ++
  Claims.broadcastPacket n p.chip.regShutdown p.chip.valShutdownOff ++
  Claims.refreshPackets n []

section bringUp
variable (s : State)

theorem broadcast_eq_emit (addr val : Byte) :
    broadcast s addr val = emit s (Claims.broadcastPacket s.deviceCount addr val) :=
  congrArg (emit s) (packetEvents_eq_packet _ _)

theorem setIntensity_emit (es : List Event) (v : Fin 16) :
    (emit s es).setIntensity v = emit (s.setIntensity v) es := rfl

theorem setShutdown_emit (es : List Event) (b : Bool) :
    (emit s es).setShutdown b = emit (s.setShutdown b) es := rfl

theorem clearFb_emit (es : List Event) : clearFb (emit s es) = emit (s.setFb []) es := rfl

/-- Everything bring-up does: its broadcasts read nothing of the display state, so the state updates between them may
come first. -/
theorem bringUp_eq : bringUp s =
    emit (((s.setIntensity s.params.initIntensity).setShutdown false).setFb [])
      (bringUpPackets s.params s.deviceCount) := by
  simp only [bringUp, broadcast_eq_emit, refreshAll_eq, refreshEvents_eq_refreshPackets, setIntensity_emit,
    setShutdown_emit, clearFb_emit, emit_emit, emit_params, emit_deviceCount, emit_fb, setIntensity_params,
    setIntensity_deviceCount, setShutdown_deviceCount, setFb_deviceCount, setFb_fb, bringUpPackets]

/-- Bring-up ends with a refresh, which leaves chip-select high. -/
theorem bringUp_line_cs : (bringUp s).line.cs = true := refreshAll_line_cs _

end bringUp

section outcomes
variable {s : State} {rows cols v b f t : Slot}

theorem execConstruct_of_rejected (hconf : s.configured = false)
    (h : rows.toNat < 1 ∨ cols.toNat < 1 ∨ rows.toNat * cols.toNat > s.params.maxDevices) :
    execConstruct rows cols s = .next ((s.setCfgErr true).setResponse ⟨false, true, false, 0⟩) := by
  simp only [execConstruct, unsigned, hconf, gridRejected_iff.mpr h, raiseCfgError_eq, Bool.false_eq_true,
    if_true, if_false]

theorem execConstruct_of_accepted (hconf : s.configured = false)
    (h : 1 ≤ rows.toNat ∧ 1 ≤ cols.toNat ∧ rows.toNat * cols.toNat ≤ s.params.maxDevices) :
    execConstruct rows cols s = .next (respond (bringUp (configure s rows.toNat cols.toNat))) := by
  simp only [execConstruct, unsigned, hconf, gridRejected_iff_not_valid, not_not.mpr h, Bool.false_eq_true,
    if_false]

theorem execSetIntensity_of_gt (hconf : s.configured = true) (h : v.toNat > 15) :
    execSetIntensity v s = .next (Claims.ignored s) :=
  command_eq_of_effect_eq hconf (dif_neg (Nat.not_lt.mpr h))

theorem execSetIntensity_of_le (hconf : s.configured = true) (h : v.toNat ≤ 15) :
    execSetIntensity v s = .next (respond (sendPacket (s.setIntensity ⟨v.toNat, Nat.lt_succ_of_le h⟩)
      fun _ => ⟨BitVec.ofNat 8 v.toNat, s.params.chip.regIntensity⟩)) :=
  command_eq_of_effect_eq hconf (dif_pos (Nat.lt_succ_of_le h))

theorem truth_eq_true_iff : truth b = true ↔ b.toNat ≠ 0 := decide_eq_true_iff

theorem execSetShutdown_of_configured (hconf : s.configured = true) :
    execSetShutdown b s = .next (respond (sendPacket (s.setShutdown (truth b)) fun _ =>
      ⟨if b.toNat ≠ 0 then s.params.chip.valShutdownOn else s.params.chip.valShutdownOff,
        s.params.chip.regShutdown⟩)) := by
  simp only [← truth_eq_true_iff]
  exact command_of_configured hconf _

theorem execSetFont_of_zero (hconf : s.configured = true) (h : f.toNat = 0) :
    execSetFont f s = .next (respond (s.setFont .f5x7)) :=
  command_eq_of_effect_eq hconf (if_pos h)

theorem execSetFont_of_one (hconf : s.configured = true) (h : f.toNat = 1) :
    execSetFont f s = .next (respond (s.setFont .f8x8)) :=
  command_eq_of_effect_eq hconf ((if_neg (ne_zero_of_eq_one h)).trans (if_pos h))

theorem execSetFont_of_gt (hconf : s.configured = true) (h : f.toNat > 1) :
    execSetFont f s = .next (Claims.ignored s) :=
  command_eq_of_effect_eq hconf ((if_neg (Nat.ne_zero_of_lt h)).trans (if_neg h.ne'))

theorem execSetScrollDelay_of_configured (hconf : s.configured = true) :
    execSetScrollDelay t s = .next (respond (s.setScrollDelay t)) :=
  command_of_configured hconf _

end outcomes

/-- Settles O30: a grid that is accepted is brought up, and bring-up is state updates and one list of packets. -/
theorem constructOutcome : Obligations.ConstructOutcome := by
  intro s rows cols
  refine ⟨fun hconf => execConstruct_of_configured hconf rows cols,
    fun hconf => ⟨execConstruct_of_rejected hconf, fun hrows hcols hdevices => ?_⟩⟩
  have hexec := execConstruct_of_accepted hconf ⟨hrows, hcols, hdevices⟩
  have hcs := bringUp_line_cs (configure s rows.toNat cols.toNat)
  rw [bringUp_eq] at hexec hcs
  refine ⟨_, hexec, rfl, rfl, rfl, rfl, fun _ => rfl, rfl, rfl, rfl, rfl, ?_, rfl, rfl, rfl, rfl, ?_⟩
  · rw [respond_eq, setResponse_line, hcs]
  · simp [respond_eq, configure, bringUpPackets]

/-- Settles O32: up to 15 SETINTENSITY stores the value and is one packet, the same pair for every device. -/
theorem setIntensityOutcome : Obligations.SetIntensityOutcome := by
  intro s v hconf
  refine ⟨execSetIntensity_of_gt hconf, fun hv => ?_⟩
  obtain ⟨hframe, hrest⟩ := respond_sendPacket_spec (s.setIntensity ⟨v.toNat, Nat.lt_succ_of_le hv⟩) _
  exact ⟨_, execSetIntensity_of_le hconf hv, hframe, rfl, hrest⟩

/-- Settles O33: SETSHUTDOWN stores the flag and is one packet, the same pair for every device. -/
theorem setShutdownOutcome : Obligations.SetShutdownOutcome := by
  intro s b hconf
  obtain ⟨hframe, hrest⟩ := respond_sendPacket_spec (s.setShutdown (truth b)) _
  exact ⟨_, execSetShutdown_of_configured hconf, hframe, truth_eq_true_iff, hrest⟩

/-- Settles O34: one outcome for each of the two font codes, and one for the rest. -/
theorem setFontOutcome : Obligations.SetFontOutcome := fun _ _ hconf =>
  ⟨execSetFont_of_zero hconf, execSetFont_of_one hconf, execSetFont_of_gt hconf⟩

/-- Settles O35. -/
theorem setScrollDelayStores : Obligations.SetScrollDelayStores := fun _ _ hconf =>
  execSetScrollDelay_of_configured hconf

end Sys2Proof.Machine

/-! PROOFS. Encoding (30_encoding.md R61 to R65, R70, R72): decoding undoes encoding, a wire pair that decodes is the
encoding of what it decodes to, and slots outside the format are ignored. -/

namespace Sys2Proof.Machine

/-- A wire pair is its data byte and its address byte (R70). -/
theorem pairWord_eq {p : PairWord} {d a : Byte} (hd : pairData p = d) (ha : (pairAddr p).toNat = a.toNat) :
    pairWord d a = p := by
  rw [← hd, ← BitVec.eq_of_toNat_eq ha]
  ext i hi
  rw [pairWord, BitVec.getElem_append, ← BitVec.getLsbD_eq_getElem]
  split_ifs with hlow
  · simp [pairAddr]
  · simp [pairData, Nat.add_sub_of_le (Nat.le_of_not_lt hlow)]

/-- Settles O1: the fields of an encoded word are the opcode and the operands it was built from. -/
theorem decodeOfEncode : Obligations.DecodeOfEncode := by
  intro i hwf
  cases i with
  | scrollGlyph mr n payload | drawWord count x y payload =>
    -- a well-formed payload has the length its count operand says (R63)
    have hlen := beq_iff_eq.mp hwf
    simp [encode, decode, decodeCommand, hlen]
  | wIntensity v =>
    -- the four bits of the value survive the way through the data byte
    have hlt : (v.setWidth 8).toNat < 16 := by bv_omega
    have hv : (v.setWidth 8).extractLsb' 0 4 = v := by simp [BitVec.extractLsb'_setWidth_of_le]
    simp only [encode, decode, decodePair, pairData_pairWord, pairAddr_pairWord, hlt, hv, if_true]
    rfl
  | wShutdown n => cases n <;> rfl
  | wDecode | wScanLimit | wDisplayTest => rfl
  | wDigit0 d | wDigit1 d | wDigit2 d | wDigit3 d | wDigit4 d | wDigit5 d | wDigit6 d | wDigit7 d =>
    simp [encode, decode, decodePair]
  | _ => simp [encode, decode, decodeCommand]

/-- Settles O2: the row fixes the address byte, and the operand keeps what the row leaves open of the data byte. -/
theorem encodeOfDecodedPair : Obligations.EncodeOfDecodedPair := by
  intro p i hd
  simp only [decode, decodePair] at hd
  split at hd
  -- no row has this address
  case h_14 => cases hd
  -- DECODE, SCANLIMIT and DISPLAYTEST fix the data byte
  case h_9 hop | h_11 hop | h_13 hop =>
    split_ifs at hd with hdata
    cases hd
    exact congrArg Transfer.pair (pairWord_eq (BitVec.eq_of_toNat_eq hdata) hop)
  -- INTENSITY keeps the low four bits, and the others are 0
  case h_10 hop =>
    split_ifs at hd with hdata
    cases hd
    refine congrArg Transfer.pair (pairWord_eq (BitVec.eq_of_toNat_eq ?_) hop)
    have hbyte := (pairData p).isLt
    simp [Nat.mod_eq_of_lt hdata, Nat.mod_eq_of_lt hbyte]
  -- SHUTDOWN keeps bit 0, and the others are 0
  case h_12 hop =>
    split_ifs at hd with hdata
    cases hd
    refine congrArg Transfer.pair (pairWord_eq ?_ hop)
    obtain h0 | h1 : (pairData p).toNat = 0 ∨ (pairData p).toNat = 1 := by omega
    · rw [BitVec.eq_of_toNat_eq (y := 0x00#8) h0]
      rfl
    · rw [BitVec.eq_of_toNat_eq (y := 0x01#8) h1]
      rfl
  -- the eight digit rows keep the data byte
  all_goals next hop =>
    cases hd
    exact congrArg Transfer.pair (pairWord_eq rfl hop)

/-- Settles O3: the decoder reads only the opcode and the slots of its format, and the payload only to match it
against its count. -/
theorem unusedSlotsAreIgnored : Obligations.UnusedSlotsAreIgnored := by
  intro w w' pl pl' hop hslot hpl
  simp only [decode]
  unfold decodeCommand
  rw [← hop]
  split
  -- SCROLLGLYPH and DRAWWORD have their payload in common
  case h_22 h | h_25 h =>
    rw [h] at hslot
    have hcommon := hpl (by simp [Claims.payloadCount, h])
    simp (disch := decide) only [hslot, hcommon]
  -- CLEARBUF, REFRESH and CLRREFRESH have no slots, and a reserved opcode has no format
  case h_9 | h_12 | h_13 | h_26 => rfl
  -- the other 20 commands of the table
  all_goals next h =>
    rw [h] at hslot
    simp (disch := decide) only [hslot]

/-- Settles O4, by computing the ten fixed words. -/
theorem specWordsDecode : Obligations.SpecWordsDecode :=
  ⟨rfl, rfl, rfl, rfl, rfl, rfl, rfl, rfl, rfl, rfl⟩

end Sys2Proof.Machine

/-! PROOFS. What a step can do to the state, said once: every instruction is a chain of elementary updates, each of one
resource of the access table R36.  What every step keeps (10_state.md R14, R16, R23, R25, R29) is then a fact about one
update. -/

namespace Sys2Proof.Machine

/-- What an elementary update writes: the columns of the access table R36, the port (R30), and the response with the
counter of free values (R31; log 3, log 8).  A `note` is a DELAY or GLYPH event, a `packet` a whole packet. -/
inductive Resource where
  | port
  | answer
  | cfgErr
  | grid
  | font
  | scrollDelay
  | intensity
  | shutdown
  | fb
  | note
  | packet
  deriving DecidableEq

/-- One elementary update.  The flags and the grid are written while UNCONFIGURED only and the events are emitted
while CONFIGURED only; a new FrameBuffer is canonical and in the grid when the state was sound. -/
inductive Update (s : State) : Resource → State → Prop
  | port (p : List Transfer) : Update s .port (s.setPort p)
  | answer (r : Option Response) (n : Nat) : Update s .answer { s with response := r, freeCount := n }
  | cfgErr (hunconf : s.configured = false) : Update s .cfgErr (s.setCfgErr true)
  | grid (rows cols : Nat) (hunconf : s.configured = false)
      (hvalid : 1 ≤ rows ∧ 1 ≤ cols ∧ rows * cols ≤ s.params.maxDevices) :
      Update s .grid ((s.setGrid rows cols).setCfgErr false)
  | font (f : Font) : Update s .font (s.setFont f)
  | scrollDelay (t : BitVec 16) : Update s .scrollDelay (s.setScrollDelay t)
  | intensity (v : Fin 16) : Update s .intensity (s.setIntensity v)
  | shutdown (b : Bool) : Update s .shutdown (s.setShutdown b)
  | fb (m : Memory) (hsound : Inv s → m.wf = true ∧ m.below s.fbLen = true) : Update s .fb (s.setFb m)
  | delay (t : BitVec 16) (hconf : s.configured = true) : Update s .note (emit s [.delay t])
  | glyph (c : Byte) (f : Font) (hconf : s.configured = true) : Update s .note (emit s [.glyph c f])
  | packet (pair : Nat → Pair) (hconf : s.configured = true) : Update s .packet (sendPacket s pair)

/-- The fields an update of a resource leaves alone. -/
structure Frame (p : Resource) (s t : State) : Prop where
  params : t.params = s.params
  port : p ≠ .port → t.port = s.port
  configured : p ≠ .grid → t.configured = s.configured
  cfgErr : p ≠ .cfgErr → p ≠ .grid → t.cfgErr = s.cfgErr
  rows : p ≠ .grid → t.rows = s.rows
  cols : p ≠ .grid → t.cols = s.cols
  font : p ≠ .font → t.font = s.font
  scrollDelay : p ≠ .scrollDelay → t.scrollDelay = s.scrollDelay
  intensity : p ≠ .intensity → t.intensity = s.intensity
  shutdown : p ≠ .shutdown → t.shutdown = s.shutdown
  fb : p ≠ .fb → t.fb = s.fb
  trace : p ≠ .note → p ≠ .packet → t.trace = s.trace
  line : p ≠ .packet → t.line = s.line

namespace Update

variable {p : Resource} {s t : State}

/-- An update writes the fields of its resource and no other. -/
theorem frame (h : Update s p t) : Frame p s t := by
  cases h <;> constructor <;> simp [sendPacket, lineStep]

/-- No update leaves CONFIGURED or changes the grid there (R14, R16). -/
theorem configured_grid (h : Update s p t) (hconf : s.configured = true) :
    t.configured = true ∧ t.rows = s.rows ∧ t.cols = s.cols := by
  cases h with
  | cfgErr hunconf | grid _ _ hunconf => cases hconf.symm.trans hunconf
  | _ => exact ⟨hconf, rfl, rfl⟩

/-- Every update appends to the trace, and the line follows (R29). -/
theorem appends (h : Update s p t) : ∃ es, t.trace = s.trace ++ es ∧ t.line = es.foldl lineStep s.line := by
  cases h with
  | delay d => exact ⟨[.delay d], rfl, rfl⟩
  | glyph c f => exact ⟨[.glyph c f], rfl, rfl⟩
  | packet pair => exact ⟨packetEvents s.deviceCount pair, rfl, rfl⟩
  | _ => exact ⟨[], (List.append_nil _).symm, rfl⟩

/-- A packet closes itself, and nothing else drives chip-select (R23). -/
theorem cs (h : Update s p t) (hcs : s.line.cs = true) : t.line.cs = true := by
  cases h with
  | packet pair => exact sendPacket_line_cs s pair
  | _ => exact hcs

end Update

theorem replay_append (a b : List Event) : replay (a ++ b) = b.foldl lineStep (replay a) :=
  List.foldl_append

theorem eq_nil_of_below_zero {m : Memory} (h : m.below 0 = true) : m = [] := by
  cases m with
  | nil => rfl
  | cons c rest => simp [Memory.below] at h

section inv
variable {s : State}

/-- Fixing a legal grid keeps the invariant: before it nothing has been emitted and no byte is listed. -/
theorem inv_grid {rows cols : Nat} (hinv : Inv s) (hconf : s.configured = false)
    (hvalid : 1 ≤ rows ∧ 1 ≤ cols ∧ rows * cols ≤ s.params.maxDevices) :
    Inv ((s.setGrid rows cols).setCfgErr false) := by
  obtain ⟨hrows, hcols, htrace⟩ := hinv.gridUnconfigured hconf
  have hfb : s.fb = [] := eq_nil_of_below_zero (by
    simpa [State.fbLen, State.deviceCount, hrows] using hinv.fbInGrid)
  have hline : s.line = Line.initial := by rw [hinv.lineReplays, htrace]; rfl
  obtain ⟨hr, hc, hmax⟩ := hvalid
  refine { hinv with
    fbInGrid := ?_
    chainInGrid := ?_
    gridConfigured := fun _ => ⟨hr, hc, hmax, rfl⟩
    gridUnconfigured := nofun
    framed := ?_ }
  · exact (congrArg (Memory.below _) hfb).trans rfl
  · exact (congrArg (fun l : Line => l.chain.below _) hline).trans rfl
  · exact (congrArg (framing _) htrace).trans rfl

/-- DELAY and GLYPH events concern neither the line nor the framing (R29). -/
theorem inv_note {e : Event} (hinv : Inv s) (hconf : s.configured = true)
    (hline : lineStep s.line e = s.line) (hframe : ∀ n f, Framing.next n f e = f) : Inv (emit s [e]) := by
  refine { hinv with
    chainCanonical := (congrArg (·.chain.wf) hline).trans hinv.chainCanonical
    chainInGrid := (congrArg (·.chain.below s.deviceCount) hline).trans hinv.chainInGrid
    gridUnconfigured := fun hunconf => nomatch hconf.symm.trans hunconf
    lineReplays := ?_
    framed := ?_
    chipSelectHigh := (congrArg Line.cs hline).trans hinv.chipSelectHigh }
  · rw [emit_line, emit_trace, replay_append, ← hinv.lineReplays]
  · rw [emit_trace, framing_append, emit_packetBytes, hinv.framed]
    exact hframe s.packetBytes _

/-- A packet keeps the invariant (R29, R111, R119). -/
theorem inv_sendPacket (hinv : Inv s) (hconf : s.configured = true) (pair : Nat → Pair) :
    Inv (sendPacket s pair) := by
  have hchain : (sendPacket s pair).line.chain = commit s.line.chain s.deviceCount pair := by rw [sendPacket_eq]
  refine { hinv with
    chainCanonical := ?_
    chainInGrid := ?_
    gridUnconfigured := fun hunconf => nomatch hconf.symm.trans hunconf
    lineReplays := ?_
    framed := ?_
    chipSelectHigh := sendPacket_line_cs s pair }
  · rw [hchain]
    exact commit_wf hinv.chainCanonical _ _
  · rw [hchain]
    exact commit_below hinv.chainInGrid le_rfl _
  · rw [sendPacket, emit_line, emit_trace, replay_append, ← hinv.lineReplays]
  · rw [sendPacket, emit_trace, framing_append, emit_packetBytes, hinv.framed]
    exact foldl_framing_packet _ _

/-- Every elementary update keeps the invariant. -/
theorem Update.inv {p : Resource} {t : State} (h : Update s p t) (hinv : Inv s) : Inv t := by
  cases h with
  | cfgErr hunconf => exact { hinv with gridConfigured := fun hconf => nomatch hconf.symm.trans hunconf }
  | grid rows cols hconf hvalid => exact inv_grid hinv hconf hvalid
  | fb m hsound =>
    obtain ⟨hwf, hbelow⟩ := hsound hinv
    exact { hinv with fbCanonical := hwf, fbInGrid := hbelow }
  | delay d hconf => exact inv_note hinv hconf rfl fun _ _ => rfl
  | glyph c f hconf => exact inv_note hinv hconf rfl fun _ _ => rfl
  | packet pair hconf => exact inv_sendPacket hinv hconf pair
  | _ => exact { hinv with }

end inv

/-- A chain of elementary updates of resources that may be written. -/
def Updates (may : Resource → Prop) : State → State → Prop :=
  Relation.ReflTransGen fun s t => ∃ p, may p ∧ Update s p t

namespace Updates

variable {may : Resource → Prop} {s t u : State}

theorem refl : Updates may s s := Relation.ReflTransGen.refl

theorem trans (h : Updates may s t) (h' : Updates may t u) : Updates may s u := Relation.ReflTransGen.trans h h'

theorem single {p : Resource} (hp : may p) (h : Update s p t) : Updates may s t :=
  Relation.ReflTransGen.single ⟨p, hp, h⟩

theorem mono {may' : Resource → Prop} (hle : ∀ p, may p → may' p) (h : Updates may s t) : Updates may' s t :=
  Relation.ReflTransGen.mono (fun _ _ ⟨p, hp, hup⟩ => ⟨p, hle p hp, hup⟩) _ _ h

/-- What every update keeps, a chain of updates keeps. -/
theorem keeps {P : State → Prop} (hP : ∀ {s p t}, may p → Update s p t → P s → P t) (h : Updates may s t)
    (hs : P s) : P t := by
  induction h with
  | refl => exact hs
  | tail _ hlast ih =>
    obtain ⟨p, hp, hup⟩ := hlast
    exact hP hp hup ih

/-- A field that no update of the chain may write is unchanged. -/
theorem field_eq {α : Type} {f : State → α} (hf : ∀ {s p t}, may p → Update s p t → f t = f s)
    (h : Updates may s t) : f t = f s :=
  h.keeps (P := fun u => f u = f s) (fun hp hup heq => (hf hp hup).trans heq) rfl

theorem params_eq (h : Updates may s t) : t.params = s.params := h.field_eq fun _ hup => hup.frame.params

theorem inv (h : Updates may s t) (hinv : Inv s) : Inv t := h.keeps (fun _ hup => hup.inv) hinv

theorem cs (h : Updates may s t) (hcs : s.line.cs = true) : t.line.cs = true := h.keeps (fun _ hup => hup.cs) hcs

/-- CONFIGURED is never left, and the grid is fixed there (R14, R16). -/
theorem configured_grid (h : Updates may s t) (hconf : s.configured = true) :
    t.configured = true ∧ t.rows = s.rows ∧ t.cols = s.cols :=
  h.keeps (P := fun u => u.configured = true ∧ u.rows = s.rows ∧ u.cols = s.cols)
    (fun _ hup ⟨hc, hr, hcol⟩ => (hup.configured_grid hc).imp_right (And.imp (·.trans hr) (·.trans hcol)))
    ⟨hconf, rfl, rfl⟩

/-- The trace is appended to, and the line follows (R29). -/
theorem appends (h : Updates may s t) : ∃ es, t.trace = s.trace ++ es ∧ t.line = es.foldl lineStep s.line := by
  refine h.keeps (P := fun u => ∃ es, u.trace = s.trace ++ es ∧ u.line = es.foldl lineStep s.line)
    (fun _ hup ⟨es, htrace, hline⟩ => ?_) ⟨[], (List.append_nil _).symm, rfl⟩
  obtain ⟨es', htrace', hline'⟩ := hup.appends
  exact ⟨es ++ es', by rw [htrace', htrace, List.append_assoc], by rw [hline', hline, List.foldl_append]⟩

end Updates

section operations
variable {may : Resource → Prop} {s t : State}

theorem updates_respondValue (ha : may .answer) (value : BitVec 32) : Updates may s (respondValue s value) :=
  .single ha (.answer _ _)

/-- The outcome is a next state that a chain of updates leads to. -/
def Leads (may : Resource → Prop) (s : State) (o : Outcome) : Prop := ∃ t, o = .next t ∧ Updates may s t

theorem Leads.updates {o : Outcome} (h : Leads may s o) (ho : o = .next t) : Updates may s t := by
  obtain ⟨u, hu, hup⟩ := h
  cases hu.symm.trans ho
  exact hup

theorem leads_command (ha : may .answer) {effect : State → State}
    (he : s.configured = true → Updates may s (effect s)) : Leads may s (command s effect) := by
  refine ⟨_, rfl, ?_⟩
  split_ifs with hconf
  · exact (he hconf).trans (updates_respondValue ha 0)
  · exact updates_respondValue ha 0

/-- A query writes the response, and at most the counter of free values besides. -/
theorem leads_query (ha : may .answer) {answer : State → State × BitVec 32}
    (he : Updates may s (answer s).1) : Leads may s (query s answer) := by
  unfold query
  split_ifs
  · exact ⟨_, rfl, he.trans (updates_respondValue ha _)⟩
  · exact ⟨_, rfl, .single ha (.answer _ _)⟩

theorem updates_paint (hfb : may .fb) (dots : List Dot) : Updates may s (paint s dots) :=
  .single hfb (.fb _ fun hinv =>
    ⟨foldl_setPixel_wf dots hinv.fbCanonical, foldl_setPixel_below dots hinv.fbInGrid⟩)

theorem updates_plot (hfb : may .fb) (ps : List (Int × Int)) : Updates may s (plot s ps) := updates_paint hfb _

theorem updates_clearFb (hfb : may .fb) : Updates may s (clearFb s) := .single hfb (.fb _ fun _ => ⟨rfl, rfl⟩)

theorem updates_sendPacket (hp : may .packet) (hconf : s.configured = true) (pair : Nat → Pair) :
    Updates may s (sendPacket s pair) :=
  .single hp (.packet pair hconf)

/-- A loop whose body is a chain of updates wherever the grid is that of the loop's first state. -/
theorem updates_foldl {α : Type} {f : State → α → State} (hconf : s.configured = true)
    (hf : ∀ u a, u.configured = true → u.rows = s.rows → Updates may u (f u a)) (l : List α) :
    Updates may s (l.foldl f s) := by
  induction l generalizing s with
  | nil => exact .refl
  | cons a l ih =>
    have hbody := hf s a hconf rfl
    obtain ⟨hconf', hrows, -⟩ := hbody.configured_grid hconf
    exact hbody.trans (ih hconf' fun u b hu hr => hf u b hu (hr.trans hrows))

theorem updates_refreshAll (hp : may .packet) (hconf : s.configured = true) : Updates may s (refreshAll s) :=
  updates_foldl hconf (fun _ _ hu _ => updates_sendPacket hp hu _) _

theorem updates_shiftModuleRow (hfb : may .fb) (hn : may .note) (hconf : s.configured = true) {m : Nat}
    (hm : m < s.rows) : Updates may s (shiftModuleRow s m) :=
  (Updates.single hfb (.fb _ fun hinv =>
    ⟨shiftRowFb_wf hinv.fbCanonical, shiftRowFb_below hinv.fbInGrid hm⟩)).trans (.single hn (.delay _ hconf))

theorem updates_inject (hfb : may .fb) (hconf : s.configured = true) {m : Nat} (hm : m < s.rows) (g : Byte)
    (f : Font) : Updates may s (inject s m g f) := by
  refine .single hfb (.fb _ fun hinv => ?_)
  obtain ⟨-, hcols, -⟩ := hinv.gridConfigured hconf
  exact ⟨inject_wf hinv.fbCanonical g f, inject_below hinv.fbInGrid hm hcols g f⟩

theorem updates_columnStep (hfb : may .fb) (hn : may .note) (hp : may .packet) (hconf : s.configured = true) {m : Nat}
    (hm : m < s.rows) (f : Font) (g : Byte) : Updates may s (columnStep m f s g) :=
  ((updates_shiftModuleRow hfb hn hconf hm).trans
    (updates_inject (s := shiftModuleRow s m) hfb hconf hm g f)).trans (updates_refreshAll hp hconf)

theorem updates_scrollColumns (hfb : may .fb) (hn : may .note) (hp : may .packet) (hconf : s.configured = true)
    (mr : Int) (columns : List Byte) : Updates may s (scrollColumns s mr columns) := by
  unfold scrollColumns
  split_ifs with hmr
  · obtain ⟨h0, hlt⟩ := moduleRowOk_iff.mp hmr
    exact updates_foldl hconf (fun u g hu hrows => updates_columnStep hfb hn hp hu (by omega) s.font g) _
  · exact .refl

theorem updates_placeChar (hfb : may .fb) (hn : may .note) (hconf : s.configured = true) (c : Byte) (x y : Int) :
    Updates may s (placeChar s c x y) :=
  (Updates.single hn (.glyph c s.font hconf)).trans (updates_paint hfb _)

theorem updates_placeChars (hfb : may .fb) (hn : may .note) (hconf : s.configured = true) (cs : List Byte)
    (x y : Int) : Updates may s (placeChars s cs x y) := by
  induction cs generalizing s x with
  | nil => exact .refl
  | cons c cs ih =>
    have hfirst := updates_placeChar hfb hn hconf c x y
    exact hfirst.trans (ih (hfirst.configured_grid hconf).1 _)

theorem updates_sendPair (hp : may .packet) (pair : Pair) : Updates may s (sendPair s pair) := by
  unfold sendPair
  split_ifs with hconf
  · exact updates_sendPacket hp hconf _
  · exact .refl

/-- Bring-up writes the intensity, the shutdown flag and the FrameBuffer, and sends packets (R190). -/
theorem updates_bringUp (hi : may .intensity) (hs : may .shutdown) (hfb : may .fb) (hp : may .packet)
    (hconf : s.configured = true) : Updates may s (bringUp s) := by
  have hsend (u : State) (hu : u.configured = true) (a v : Byte) :
      Updates may u (broadcast u a v) ∧ (broadcast u a v).configured = true :=
    ⟨updates_sendPacket hp hu _, hu⟩
  unfold bringUp
  extract_lets s1 s2 s3 s4 s5 s6 s7
  obtain ⟨h1, c1⟩ : Updates may s s1 ∧ s1.configured = true := hsend s hconf _ _
  obtain ⟨h2, c2⟩ : Updates may s1 s2 ∧ s2.configured = true := hsend s1 c1 _ _
  obtain ⟨h3, c3⟩ : Updates may s2 s3 ∧ s3.configured = true := hsend s2 c2 _ _
  obtain ⟨h4, c4⟩ : Updates may s3 s4 ∧ s4.configured = true := hsend s3 c3 _ _
  have h5 : Updates may s4 s5 := .single hi (.intensity _)
  obtain ⟨h6, c6⟩ : Updates may s5 s6 ∧ s6.configured = true :=
    hsend s5 ((setIntensity_configured s4 _).trans c4) _ _
  have h7 : Updates may s6 s7 := .single hs (.shutdown _)
  have h8 : Updates may s7 (refreshAll (clearFb s7)) :=
    (updates_clearFb hfb).trans (updates_refreshAll hp ((setShutdown_configured s6 false).trans c6))
  exact h1.trans (h2.trans (h3.trans (h4.trans (h5.trans (h6.trans (h7.trans h8))))))

end operations

/-- The resources an instruction may write: the access table R36, for the wire pairs log 7. -/
def mayWrite (i : Instr) : Resource → Prop
  | .port => False
  | .answer => True
  | .cfgErr | .grid => Claims.IsConstruct i
  | .font => Claims.IsConstruct i ∨ ∃ f, i = .setFont f
  | .scrollDelay => Claims.IsConstruct i ∨ ∃ d, i = .setScrollDelay d
  | .intensity => Claims.IsConstruct i ∨ ∃ v, i = .setIntensity v
  | .shutdown => Claims.IsConstruct i ∨ ∃ b, i = .setShutdown b
  | .fb => Claims.writesFb i = true
  | .note => Claims.emits i = true
  | .packet => Claims.transmits i = true

theorem mayWrite_answer {i : Instr} : mayWrite i .answer := True.intro

/-- CONSTRUCT may write everything but the port. -/
theorem mayWrite_construct (rows cols : Slot) {p : Resource} (hp : p ≠ .port) :
    mayWrite (.construct rows cols) p := by
  have hc : Claims.IsConstruct (.construct rows cols) := ⟨rows, cols, rfl⟩
  cases p with
  | port => exact hp rfl
  | answer => exact True.intro
  | cfgErr | grid => exact hc
  | font | scrollDelay | intensity | shutdown => exact .inl hc
  | fb | note | packet => rfl

section exec
variable (s : State)

theorem leads_execConstruct (rows cols : Slot) :
    Leads (mayWrite (.construct rows cols)) s (execConstruct rows cols s) := by
  let may := mayWrite (.construct rows cols)
  have hmay {p : Resource} (hp : p ≠ .port) : may p := mayWrite_construct rows cols hp
  unfold execConstruct
  split_ifs with hconf hrejected
  · exact ⟨_, rfl, updates_respondValue mayWrite_answer 0⟩
  · have hfail : Updates may s (s.setCfgErr true) :=
      .single (hmay (by decide)) (.cfgErr (Bool.eq_false_iff.mpr hconf))
    have hanswer : Updates may (s.setCfgErr true) (raiseCfgError s) := .single (hmay (by decide)) (.answer _ _)
    exact ⟨_, rfl, hfail.trans hanswer⟩
  · have hvalid := not_not.mp (mt gridRejected_iff_not_valid.mpr hrejected)
    have hgrid : Updates may s ((s.setGrid (unsigned rows) (unsigned cols)).setCfgErr false) :=
      .single (hmay (by decide)) (.grid _ _ (Bool.eq_false_iff.mpr hconf) hvalid)
    have hdisplay : Updates may ((s.setGrid (unsigned rows) (unsigned cols)).setCfgErr false)
        (configure s (unsigned rows) (unsigned cols)) :=
      (Updates.single (hmay (by decide)) (.font _)).trans (.single (hmay (by decide)) (.scrollDelay _))
    have hbringUp : Updates may (configure s (unsigned rows) (unsigned cols)) (bringUp _) :=
      updates_bringUp (hmay (by decide)) (hmay (by decide)) (hmay (by decide)) (hmay (by decide)) rfl
    exact ⟨_, rfl, hgrid.trans (hdisplay.trans (hbringUp.trans (updates_respondValue (hmay (by decide)) 0)))⟩

/-- Every instruction answers a next state, to which updates of resources lead that it may write. -/
theorem exec_leads (i : Instr) : Leads (mayWrite i) s (exec i s) := by
  unfold exec
  cases i with
  | construct rows cols => exact leads_execConstruct s rows cols
  | setIntensity v =>
    refine leads_command mayWrite_answer fun hconf => ?_
    split_ifs
    · exact (Updates.single (.inr ⟨v, rfl⟩) (.intensity _)).trans
        (updates_sendPacket (by rfl) (by exact hconf) _)
    · exact .refl
  | setShutdown b =>
    exact leads_command mayWrite_answer fun hconf =>
      (Updates.single (.inr ⟨b, rfl⟩) (.shutdown _)).trans
        (updates_sendPacket (by rfl) (by exact hconf) _)
  | setFont f =>
    refine leads_command mayWrite_answer fun _ => ?_
    split_ifs
    · exact .single (p := .font) (.inr ⟨f, rfl⟩) (.font _)
    · exact .single (p := .font) (.inr ⟨f, rfl⟩) (.font _)
    · exact .refl
  | setScrollDelay d =>
    exact leads_command mayWrite_answer fun _ => .single (p := .scrollDelay) (.inr ⟨d, rfl⟩) (.scrollDelay _)
  | mapAddr x y =>
    refine leads_query mayWrite_answer ?_
    split_ifs
    · exact .refl
    · exact .single (p := .answer) mayWrite_answer (.answer _ _)
  | getLed x y => exact leads_query mayWrite_answer .refl
  | setLed x y on => exact leads_command mayWrite_answer fun _ => updates_paint (by rfl) _
  | clearBuf => exact leads_command mayWrite_answer fun _ => updates_clearFb (by rfl)
  | point | drawLine | drawTri | drawQuad | drawRect | drawCircle | drawEllipse =>
    exact leads_command mayWrite_answer fun _ => updates_plot (by rfl) _
  | bcast | refreshRow =>
    refine leads_command mayWrite_answer fun hconf => ?_
    split_ifs
    · exact .refl
    · exact updates_sendPacket (by rfl) hconf _
  | refresh => exact leads_command mayWrite_answer (updates_refreshAll (by rfl))
  | clrRefresh =>
    exact leads_command mayWrite_answer fun hconf =>
      (updates_clearFb (by rfl)).trans (updates_refreshAll (by rfl) (s := clearFb s) hconf)
  | shiftRow mr =>
    refine leads_command mayWrite_answer fun hconf => ?_
    split_ifs with hmr
    · obtain ⟨h0, hlt⟩ := moduleRowOk_iff.mp hmr
      exact updates_shiftModuleRow (by rfl) (by rfl) hconf (by omega)
    · exact .refl
  | scrollGlyph mr n payload =>
    refine leads_command mayWrite_answer fun hconf => ?_
    split_ifs
    · exact updates_scrollColumns (by rfl) (by rfl) (by rfl) hconf _ _
    · exact .refl
  | scrollChar c mr =>
    refine leads_command mayWrite_answer fun hconf => ?_
    split_ifs
    · exact .refl
    · exact (Updates.single (p := .note) (by rfl) (.glyph _ _ hconf)).trans
        (updates_scrollColumns (by rfl) (by rfl) (by rfl) (by exact hconf) _ _)
    · exact .refl
  | drawChar c x y =>
    refine leads_command mayWrite_answer fun hconf => ?_
    split_ifs
    · exact .refl
    · exact updates_placeChar (by rfl) (by rfl) hconf _ _ _
  | drawWord count x y payload =>
    refine leads_command mayWrite_answer fun hconf => ?_
    split_ifs
    · exact updates_placeChars (by rfl) (by rfl) hconf _ _ _
    · exact .refl
  -- the thirteen wire pairs
  | _ => exact ⟨_, rfl, updates_sendPair (by rfl) _⟩

end exec

end Sys2Proof.Machine

/-! PROOFS. The step and what every step keeps (10_state.md sections 2, 4, 5 and 7; 60_exceptions.md R210), each from
the chain of updates the step is; and the state after reset. -/

namespace Sys2Proof.Machine

section step
variable {s : State}

theorem step_of_fetch_done {t : State} (h : fetch s = .done t) : step s = .next t := by
  rw [step, h]

theorem step_of_fetch_run {i : Instr} {t : State} (h : fetch s = .run i t) : step s = exec i t := by
  rw [step, h]

/-- Every step answers a next state that a chain of updates leads to. -/
theorem step_leads (s : State) : Leads (fun _ => True) s (step s) := by
  have htake (rest : List Transfer) : Updates (fun _ => True) s (s.setPort rest) := .single trivial (.port rest)
  have hrun (i : Instr) (rest : List Transfer) : Leads (fun _ => True) s (exec i (s.setPort rest)) := by
    obtain ⟨t, hexec, hup⟩ := exec_leads (s.setPort rest) i
    exact ⟨t, hexec, (htake rest).trans (hup.mono fun _ _ => trivial)⟩
  obtain ⟨-, hf⟩ | ⟨w, pl, rest, i, -, -, hf⟩ | ⟨w, pl, rest, e, -, -, hf⟩ | ⟨p, rest, i, -, -, hf⟩ |
    ⟨p, rest, e, -, -, hf⟩ := fetch_cases s
  · exact ⟨s, step_of_fetch_done hf, .refl⟩
  · rw [step_of_fetch_run hf]
    exact hrun i rest
  · exact ⟨_, step_of_fetch_done hf, (htake rest).trans (updates_respondValue trivial 0)⟩
  · rw [step_of_fetch_run hf]
    exact hrun i rest
  · exact ⟨_, step_of_fetch_done hf, htake rest⟩

end step

/-- Settles O5: what the step does is what taking the transfer leads to. -/
theorem stepRunsDecodedInstruction : Obligations.StepRunsDecodedInstruction := by
  intro s
  refine ⟨fun w pl rest i hp hd => step_of_decode_ok hp hd, fun p rest i hp hd => step_of_fetch_run ?_,
    fun hp => step_of_fetch_done ?_, fun w pl rest e hp hd => step_eq_ignored_of_decode_error hp hd,
    fun p rest e hp hd => step_of_fetch_done ?_⟩
  all_goals simp only [fetch, *]

/-- Settles O8: every update of the chain keeps the invariant. -/
theorem stepKeepsInvariant : Obligations.StepKeepsInvariant :=
  fun s _ hinv hstep => ((step_leads s).updates hstep).inv hinv

/-- Settles O11: no update writes a parameter, or the flag and the grid while CONFIGURED. -/
theorem gridIsImmutable : Obligations.GridIsImmutable := by
  intro s t hstep
  have hup := (step_leads s).updates hstep
  exact ⟨hup.params_eq, hup.configured_grid⟩

/-- Settles O13: the events of the chain's updates, one after the other. -/
theorem traceIsAppendOnly : Obligations.TraceIsAppendOnly :=
  fun s _ hstep => ((step_leads s).updates hstep).appends

/-- Settles O15: every update of the chain leaves chip-select high. -/
theorem commandsLeaveChipSelectHigh : Obligations.CommandsLeaveChipSelectHigh :=
  fun s _ i hcs hexec => ((exec_leads s i).updates hexec).cs hcs

/-- A run of `k + 1` steps is one step and a run of `k`. -/
theorem run_succ {M : Host.Core} {s t : M.State} (h : M.step s = .next t) (k : Nat) :
    M.run (k + 1) s = M.run k t := by
  simp only [Host.Core.run, h]

/-- Settles O7, by induction on the number of steps: every step answers a next state. -/
theorem machineNeverStops : Obligations.MachineNeverStops := by
  intro k
  induction k with
  | zero => exact fun s => ⟨s, rfl⟩
  | succ k ih =>
    intro s
    obtain ⟨t, hstep, -⟩ := step_leads s
    obtain ⟨u, hrun⟩ := ih t
    exact ⟨u, (run_succ hstep k).trans hrun⟩

/-- A resource that may be written is none that may not. -/
theorem ne_of_mayWrite {i : Instr} {p q : Resource} (hp : mayWrite i p) (hq : ¬ mayWrite i q) : p ≠ q :=
  fun h => hq (h ▸ hp)

theorem emits_of_transmits {i : Instr} (h : Claims.transmits i = true) : Claims.emits i = true := by
  cases i with
  | shiftRow | drawChar | drawWord => cases h
  | _ => exact h

/-- Settles O14: an instruction leaves every resource alone that the access table does not give it. -/
theorem whoWritesWhat : Obligations.WhoWritesWhat := by
  intro s t i hexec
  have hup := (exec_leads s i).updates hexec
  have hframe {α : Type} {f : State → α} (q : Resource) (hq : ¬ mayWrite i q)
      (hf : ∀ {s p t}, Frame p s t → p ≠ q → f t = f s) : f t = f s :=
    hup.field_eq fun hp hu => hf hu.frame (ne_of_mayWrite hp hq)
  refine ⟨hup.params_eq, hframe .port not_false (·.port),
    fun hc => ⟨hframe .grid hc (·.rows), hframe .grid hc (·.cols)⟩,
    fun hc hi => hframe .font (not_or.mpr ⟨hc, not_exists.mpr hi⟩) (·.font),
    fun hc hi => hframe .scrollDelay (not_or.mpr ⟨hc, not_exists.mpr hi⟩) (·.scrollDelay),
    fun hc hi => hframe .intensity (not_or.mpr ⟨hc, not_exists.mpr hi⟩) (·.intensity),
    fun hc hi => hframe .shutdown (not_or.mpr ⟨hc, not_exists.mpr hi⟩) (·.shutdown),
    fun hi => hframe .fb (Bool.eq_false_iff.mp hi) (·.fb), fun hi => ?_,
    fun hi => hframe .packet (Bool.eq_false_iff.mp hi) (·.line)⟩
  have hnote : ¬ mayWrite i .note := Bool.eq_false_iff.mp hi
  have hpacket : ¬ mayWrite i .packet := mt emits_of_transmits hnote
  exact hup.field_eq fun hp hu => hu.frame.trace (ne_of_mayWrite hp hnote) (ne_of_mayWrite hp hpacket)

/-- Settles O12: only CONSTRUCT may write the flags, and its three outcomes say how. -/
theorem lifeCycleFlags : Obligations.LifeCycleFlags := by
  refine ⟨rfl, rfl, fun s t i hexec => ⟨fun hc => ?_, ?_⟩⟩
  · have hup := (exec_leads s i).updates hexec
    exact ⟨hup.field_eq fun hp hu => hu.frame.configured (ne_of_mayWrite hp hc),
      hup.field_eq fun hp hu => hu.frame.cfgErr (ne_of_mayWrite hp hc) (ne_of_mayWrite hp hc)⟩
  · rintro rows cols rfl
    obtain ⟨hignored, houtcome⟩ := constructOutcome s rows cols
    refine ⟨fun hconf => ?_, fun hconf => ⟨fun ⟨hr, hc, hmax⟩ => ?_, fun hinvalid => ?_⟩⟩
    · cases hexec.symm.trans (hignored hconf)
      exact ⟨hconf, rfl⟩
    · obtain ⟨t', hexec', hconf', herr', -⟩ := (houtcome hconf).2 hr hc hmax
      cases hexec.symm.trans hexec'
      exact ⟨hconf', herr'⟩
    · cases hexec.symm.trans ((houtcome hconf).1 (by omega))
      exact ⟨hconf, rfl⟩

section params
open Config

/-- Inserting the bit numbers one by one, wherever, gives an order of them all (R5, log 12). -/
theorem bitOrder_perm (place : Nat → Nat) (k : Nat) : (bitOrder place k).Perm (List.range k) := by
  induction k with
  | zero => exact .nil
  | succ k ih =>
    have hplace : place k % (k + 1) ≤ (bitOrder place k).length := by
      rw [ih.length_eq, List.length_range]
      exact Nat.le_of_lt_succ (Nat.mod_lt _ k.succ_pos)
    rw [bitOrder, List.range_succ]
    exact ((List.perm_insertIdx k _ hplace).trans (ih.cons k)).trans (List.perm_append_singleton k _).symm

/-- The first `n` bits of an order of the eight are `n` different bits below 8 (R175). -/
theorem take_bitOrder (place : Nat → Nat) {n : Nat} (hn : n ≤ 8) : ((bitOrder place 8).take n).length = n ∧
    ((bitOrder place 8).take n).Nodup ∧ ∀ b ∈ (bitOrder place 8).take n, b < 8 := by
  have hperm := bitOrder_perm place 8
  refine ⟨?_, ?_, fun b hb => ?_⟩
  · rw [List.length_take, hperm.length_eq, List.length_range, Nat.min_eq_left hn]
  · exact (hperm.nodup_iff.mpr List.nodup_range).take
  · exact List.mem_range.mp (hperm.mem_iff.mp (List.mem_of_mem_take hb))

theorem params_wf : Params.wf Config.params = true := by
  have hbits8x8 := take_bitOrder (glyphBitPlace .f8x8) (Nat.le_refl 8)
  rw [List.take_of_length_le (Nat.le_of_eq ((bitOrder_perm _ 8).length_eq.trans List.length_range))] at hbits8x8
  have hbits5x7 := take_bitOrder (glyphBitPlace .f5x7) (show 7 ≤ 8 by decide)
  simp only [Params.wf, Bool.and_eq_true, decide_eq_true_iff]
  exact ⟨⟨Nat.le_add_left 1 _, hbits8x8⟩, hbits5x7⟩

end params

theorem inv_reset : Inv State.reset where
  fbCanonical := rfl
  fbInGrid := rfl
  chainCanonical := rfl
  chainInGrid := rfl
  gridConfigured := nofun
  gridUnconfigured := fun _ => ⟨rfl, rfl, rfl⟩
  lineReplays := rfl
  framed := rfl
  chipSelectHigh := rfl

/-- Settles O9: the bit orders of the fonts are orders of the bits whatever the places are. -/
theorem resetMeetsInvariant : Obligations.ResetMeetsInvariant := ⟨inv_reset, params_wf⟩

/-- Settles O10, field by field. -/
theorem resetState : Obligations.ResetState :=
  ⟨rfl, rfl, rfl, rfl, rfl, rfl, rfl, rfl, rfl, rfl, rfl, rfl, rfl, rfl, rfl, rfl, rfl, fun _ _ => rfl⟩

end Sys2Proof.Machine

/-! PROOFS. Nothing reads the intensity or the shutdown flag (10_state.md R19, R20): every operation run from a state
with another display state leads to the same state, again but for these two fields. -/

namespace Sys2Proof.Machine

/-- The state with another intensity and another shutdown flag. -/
def redisplay (s : State) (v : Fin 16) (b : Bool) : State := (s.setIntensity v).setShutdown b

section redisplay
variable (s : State) (v : Fin 16) (b : Bool)

theorem redisplay_rows : (redisplay s v b).rows = s.rows := rfl

theorem redisplay_cols : (redisplay s v b).cols = s.cols := rfl

theorem refreshAll_redisplay : refreshAll (redisplay s v b) = redisplay (refreshAll s) v b := by
  rw [refreshAll_eq, refreshAll_eq]
  rfl

theorem placeChars_redisplay (cs : List Byte) (x y : Int) :
    placeChars (redisplay s v b) cs x y = redisplay (placeChars s cs x y) v b := by
  rw [placeChars_eq, placeChars_eq]
  rfl

theorem columnStep_redisplay (m : Nat) (f : Font) (g : Byte) :
    columnStep m f (redisplay s v b) g = redisplay (columnStep m f s g) v b :=
  refreshAll_redisplay (inject (shiftModuleRow s m) m g f) v b

theorem scrollColumns_redisplay (mr : Int) (columns : List Byte) :
    scrollColumns (redisplay s v b) mr columns = redisplay (scrollColumns s mr columns) v b := by
  unfold scrollColumns
  rw [redisplay_rows]
  split_ifs
  · exact List.foldl_hom (redisplay · v b) fun s g => columnStep_redisplay s v b mr.toNat _ g
  · rfl

theorem bringUp_redisplay : bringUp (redisplay s v b) = bringUp s := by
  rw [bringUp_eq, bringUp_eq]
  rfl

end redisplay

/-- Both outcomes are next states, which differ at most in the intensity and the shutdown flag. -/
def SameButDisplay (o o' : Outcome) : Prop := ∃ t v b, o = .next t ∧ o' = .next (redisplay t v b)

section exec
variable {s : State} {v : Fin 16} {b : Bool}

theorem sameButDisplay_command {effect : State → State}
    (he : ∃ v' b', effect (redisplay s v b) = redisplay (effect s) v' b') :
    SameButDisplay (command s effect) (command (redisplay s v b) effect) := by
  cases hconf : s.configured with
  | false =>
    rw [command_of_unconfigured hconf, command_of_unconfigured (s := redisplay s v b) hconf]
    exact ⟨respond s, v, b, rfl, rfl⟩
  | true =>
    obtain ⟨v', b', heq⟩ := he
    rw [command_of_configured hconf, command_of_configured (s := redisplay s v b) hconf, heq]
    exact ⟨_, v', b', rfl, rfl⟩

theorem sameButDisplay_query {answer : State → State × BitVec 32}
    (he : answer (redisplay s v b) = (redisplay (answer s).1 v b, (answer s).2)) :
    SameButDisplay (query s answer) (query (redisplay s v b) answer) := by
  cases hconf : s.configured with
  | false =>
    rw [query_of_unconfigured hconf, query_of_unconfigured (s := redisplay s v b) hconf]
    exact ⟨_, v, b, rfl, rfl⟩
  | true =>
    rw [query_of_configured hconf, query_of_configured (s := redisplay s v b) hconf, he]
    exact ⟨_, v, b, rfl, rfl⟩

theorem sameButDisplay_sendPair (p : Pair) :
    SameButDisplay (.next (sendPair s p)) (.next (sendPair (redisplay s v b) p)) := by
  cases hconf : s.configured with
  | false =>
    rw [sendPair_of_unconfigured hconf, sendPair_of_unconfigured (s := redisplay s v b) hconf]
    exact ⟨s, v, b, rfl, rfl⟩
  | true =>
    rw [sendPair_of_configured hconf, sendPair_of_configured (s := redisplay s v b) hconf]
    exact ⟨_, v, b, rfl, rfl⟩

/-- A CONSTRUCT that succeeds overwrites both fields (R190); otherwise it leaves them. -/
theorem sameButDisplay_execConstruct (rows cols : Slot) :
    SameButDisplay (execConstruct rows cols s) (execConstruct rows cols (redisplay s v b)) := by
  cases hconf : s.configured with
  | true =>
    rw [execConstruct_of_configured hconf, execConstruct_of_configured (s := redisplay s v b) hconf]
    exact ⟨_, v, b, rfl, rfl⟩
  | false =>
    by_cases hvalid : 1 ≤ rows.toNat ∧ 1 ≤ cols.toNat ∧ rows.toNat * cols.toNat ≤ s.params.maxDevices
    · rw [execConstruct_of_accepted hconf hvalid, execConstruct_of_accepted (s := redisplay s v b) hconf hvalid]
      have hsame : bringUp (configure (redisplay s v b) rows.toNat cols.toNat) =
          bringUp (configure s rows.toNat cols.toNat) := bringUp_redisplay (configure s rows.toNat cols.toNat) v b
      rw [hsame]
      exact ⟨_, _, _, rfl, rfl⟩
    · have hinvalid : rows.toNat < 1 ∨ cols.toNat < 1 ∨ rows.toNat * cols.toNat > s.params.maxDevices := by omega
      rw [execConstruct_of_rejected hconf hinvalid, execConstruct_of_rejected (s := redisplay s v b) hconf hinvalid]
      exact ⟨_, v, b, rfl, rfl⟩

/-- Every instruction, from two states that differ at most in these fields, leads to two such states. -/
theorem sameButDisplay_exec (i : Instr) : SameButDisplay (exec i s) (exec i (redisplay s v b)) := by
  unfold exec
  cases i with
  | construct rows cols => exact sameButDisplay_execConstruct rows cols
  | setIntensity w =>
    refine sameButDisplay_command ?_
    split_ifs with h
    · exact ⟨⟨unsigned w, h⟩, b, rfl⟩
    · exact ⟨v, b, rfl⟩
  | setShutdown c => exact sameButDisplay_command ⟨v, truth c, rfl⟩
  | mapAddr x y =>
    refine sameButDisplay_query ?_
    rw [redisplay_rows, redisplay_cols]
    split_ifs <;> rfl
  | getLed x y => exact sameButDisplay_query rfl
  | refresh => exact sameButDisplay_command ⟨v, b, refreshAll_redisplay s v b⟩
  | clrRefresh => exact sameButDisplay_command ⟨v, b, refreshAll_redisplay (clearFb s) v b⟩
  | setScrollDelay | setLed | clearBuf | point | drawLine | drawTri | drawQuad | drawRect | drawCircle
  | drawEllipse =>
    exact sameButDisplay_command ⟨v, b, rfl⟩
  | setFont | bcast | refreshRow | drawChar =>
    refine sameButDisplay_command ⟨v, b, ?_⟩
    split_ifs <;> rfl
  | shiftRow mr =>
    refine sameButDisplay_command ⟨v, b, ?_⟩
    rw [redisplay_rows]
    split_ifs <;> rfl
  | scrollGlyph mr n payload =>
    refine sameButDisplay_command ⟨v, b, ?_⟩
    split_ifs
    · exact scrollColumns_redisplay s v b _ _
    · rfl
  | scrollChar c mr =>
    refine sameButDisplay_command ⟨v, b, ?_⟩
    rw [redisplay_rows]
    split_ifs
    · rfl
    · exact scrollColumns_redisplay (emit s [.glyph (lowByte c) s.font]) v b _ _
    · rfl
  | drawWord count x y payload =>
    refine sameButDisplay_command ⟨v, b, ?_⟩
    split_ifs
    · exact placeChars_redisplay s v b _ _ _
    · rfl
  -- the thirteen wire pairs
  | _ => exact sameButDisplay_sendPair _

end exec

/-- Settles O17: each operation of the model gives the same whatever the two fields are. -/
theorem intensityAndShutdownDecideNothing : Obligations.IntensityAndShutdownDecideNothing := by
  intro s i v b
  obtain ⟨t, v', b', hexec, hexec'⟩ := sameButDisplay_exec (s := s) (v := v) (b := b) i
  exact ⟨t, _, hexec, hexec', rfl⟩

end Sys2Proof.Machine

/-! PROOFS. The wire pairs (30_encoding.md R70 to R72; log 7): each is one packet with its pair for every device, and
these packets are what BCAST, REFRESHROW, SETINTENSITY, SETSHUTDOWN and CONSTRUCT send. -/

namespace Sys2Proof.Machine

section wirePair
variable {s : State} {i : Instr} {p : Pair}

/-- A wire pair sends its register write (R72). -/
theorem exec_of_wirePair (hi : Claims.wirePair i = some p) : exec i s = .next (sendPair s p) := by
  -- only the thirteen wire pairs have one
  cases i <;> simp only [Claims.wirePair, reduceCtorEq, Option.some.injEq] at hi <;> (subst hi; rfl)

theorem exec_wirePair_of_configured (hi : Claims.wirePair i = some p) (hconf : s.configured = true) :
    exec i s = .next (sendPacket s fun _ => p) := by
  rw [exec_of_wirePair hi, sendPair_of_configured hconf, broadcast]

/-- In a run that has emitted `es` so far, a wire pair adds its packet. -/
theorem runAll_wirePair (hi : Claims.wirePair i = some p) (hconf : s.configured = true) (is : List Instr)
    (es : List Event) : Claims.runAll (i :: is) (emit s es) =
      Claims.runAll is (emit s (es ++ Claims.broadcastPacket s.deviceCount p.addr p.data)) := by
  rw [Claims.runAll, exec_of_wirePair hi, sendPair_of_configured (s := emit s es) hconf, broadcast_eq_emit, emit_emit,
    emit_deviceCount]

end wirePair

theorem wirePair_digitPair {r : Nat} (hr : r ≤ 7) (b : Byte) :
    Claims.wirePair (Claims.digitPair r b) = some ⟨b, regDigit r⟩ := by
  interval_cases r <;> rfl

/-- A packet depends on the pairs of its devices only (R111). -/
theorem packetEvents_congr {n : Nat} {pair pair' : Nat → Pair} (h : ∀ d, d < n → pair d = pair' d) :
    packetEvents n pair = packetEvents n pair' := by
  have hpairs : pairEvents pair n = pairEvents pair' n := by
    induction n with
    | zero => rfl
    | succ n ih => rw [pairEvents, pairEvents, h n n.lt_succ_self, ih fun d hd => h d (Nat.lt_succ_of_lt hd)]
  rw [packetEvents, packetEvents, hpairs]

/-- Four bits in a data byte (R72). -/
theorem setWidth_ofNat_of_lt {n : Nat} (h : n < 16) : (BitVec.ofNat 4 n).setWidth 8 = BitVec.ofNat 8 n := by
  apply BitVec.eq_of_toNat_eq
  rw [BitVec.toNat_setWidth, BitVec.toNat_ofNat, BitVec.toNat_ofNat, Nat.mod_eq_of_lt (a := n) (b := 2 ^ 4) h]

/-- Settles O53: one packet, the same pair for every device. -/
theorem wirePairRuns : Obligations.WirePairRuns := by
  intro s i p hi
  refine ⟨fun hconf => ?_, fun hconf => ?_⟩
  · rw [exec_of_wirePair hi, sendPair_of_unconfigured hconf]
  · exact ⟨_, exec_wirePair_of_configured hi hconf, by constructor <;> rfl, rfl, rfl, sendPacket_line_cs s _,
      sendPacket_trace s _, chipReg_sendPacket s _⟩

section commands
variable {s : State} {i : Instr} {p : Pair}

/-- A wire pair is BCAST of its address and data, which also answers (R115). -/
theorem bcast_of_wirePair (hi : Claims.wirePair i = some p) (hconf : s.configured = true) :
    ∃ t, exec i s = .next t ∧
      exec (.bcast (p.addr.setWidth 16) (p.data.setWidth 16)) s = .next (Claims.ignored t) := by
  have hwide (b : Byte) : (b.setWidth 16).toNat = b.toNat := BitVec.toNat_setWidth_of_le (by decide)
  have hbyte (b : Byte) : (b.setWidth 16).toNat ≤ 255 := by
    have := b.isLt
    rw [hwide]
    omega
  refine ⟨_, exec_wirePair_of_configured hi hconf, (execBcast_of_le hconf (hbyte p.addr) (hbyte p.data)).trans ?_⟩
  simp only [hwide, BitVec.ofNat_toNat, BitVec.setWidth_eq]
  rfl

/-- The packet of REFRESHROW is the digit pair of each device's own byte (R113). -/
theorem refreshRow_trace (hconf : s.configured = true) {row : Slot} (hrow : row.toNat ≤ 7) :
    ∃ t, exec (.refreshRow row) s = .next t ∧ t.trace = s.trace ++ [.csLow] ++
      ((List.range s.deviceCount).reverse.flatMap fun d =>
        (Claims.wirePair (Claims.digitPair row.toNat (s.fb.read (8 * d + row.toNat)))).toList.flatMap fun p =>
          [.tx p.data, .tx p.addr]) ++ [.csHigh] := by
  refine ⟨_, execRefreshRow_of_le hconf hrow, (sendPacket_trace s _).trans ?_⟩
  simp only [wirePair_digitPair hrow, Option.toList_some, List.flatMap_singleton, Claims.packet, rowPair,
    List.append_assoc]

/-- REFRESHROW is one digit pair where all devices show the same byte. -/
theorem refreshRow_of_same_byte (hconf : s.configured = true) {row : Slot} (hrow : row.toNat ≤ 7) {b : Byte}
    (hb : ∀ d, d < s.deviceCount → s.fb.read (8 * d + row.toNat) = b) :
    ∃ t, exec (Claims.digitPair row.toNat b) s = .next t ∧
      exec (.refreshRow row) s = .next (Claims.ignored t) := by
  refine ⟨_, exec_wirePair_of_configured (wirePair_digitPair hrow b) hconf,
    (execRefreshRow_of_le hconf hrow).trans ?_⟩
  have hsame : packetEvents s.deviceCount (rowPair s.fb row.toNat) =
      packetEvents s.deviceCount fun _ => ⟨b, regDigit row.toNat⟩ :=
    packetEvents_congr fun d hd => by rw [rowPair, hb d hd]
  rw [sendPacket, hsame]
  rfl

/-- With the default register map SETINTENSITY is the new intensity and W.INTENSITY (R191). -/
theorem setIntensity_of_wirePair (hconf : s.configured = true) (hchip : s.params.chip = Config.chip) {v : Slot}
    (h : v.toNat < 16) :
    ∃ t, exec (.wIntensity (BitVec.ofNat 4 v.toNat)) (s.setIntensity ⟨v.toNat, h⟩) = .next t ∧
      exec (.setIntensity v) s = .next (Claims.ignored t) := by
  refine ⟨_, exec_wirePair_of_configured (s := s.setIntensity _) rfl hconf,
    (execSetIntensity_of_le hconf (Nat.le_of_lt_succ h)).trans ?_⟩
  rw [hchip, setWidth_ofNat_of_lt h]
  rfl

/-- With the default register map SETSHUTDOWN is the new flag and W.SHUTDOWN (R192). -/
theorem setShutdown_of_wirePair (hconf : s.configured = true) (hchip : s.params.chip = Config.chip) (b : Slot) :
    ∃ t, exec (.wShutdown (decide (b.toNat = 0))) (s.setShutdown (decide (b.toNat ≠ 0))) = .next t ∧
      exec (.setShutdown b) s = .next (Claims.ignored t) := by
  refine ⟨_, exec_wirePair_of_configured (s := s.setShutdown _) rfl hconf,
    (execSetShutdown_of_configured hconf).trans ?_⟩
  rw [hchip, show truth b = decide (b.toNat ≠ 0) from rfl]
  by_cases hb : b.toNat = 0 <;> simp [hb, Config.chip] <;> rfl

theorem setFb_emit (s : State) (es : List Event) (m : Memory) : (emit s es).setFb m = emit (s.setFb m) es := rfl

/-- With the default register map the five wire pairs of bring-up and CLRREFRESH send its packets (R190). -/
theorem runAll_bringUp (hconf : s.configured = true) (hchip : s.params.chip = Config.chip) :
    Claims.runAll [.wDisplayTest, .wScanLimit, .wDecode, .wIntensity (BitVec.ofNat 4 s.params.initIntensity.val),
      .wShutdown true, .clrRefresh] s =
        .next (respond (emit (s.setFb []) (bringUpPackets s.params s.deviceCount))) := by
  refine (congrArg _ (emit_nil s).symm).trans ?_
  rw [runAll_wirePair rfl hconf, runAll_wirePair rfl hconf, runAll_wirePair rfl hconf, runAll_wirePair rfl hconf,
    runAll_wirePair rfl hconf, setWidth_ofNat_of_lt s.params.initIntensity.isLt, Claims.runAll, exec,
    execClrRefresh_of_configured (s := emit s _) hconf, setFb_emit, refreshAll_eq, refreshEvents_eq_refreshPackets,
    emit_emit, bringUpPackets, hchip]
  rfl

/-- With the default register map CONSTRUCT is its state update, five wire pairs and CLRREFRESH (R190). -/
theorem construct_of_wirePairs (hconf : s.configured = false) (hchip : s.params.chip = Config.chip)
    {rows cols : Slot}
    (hvalid : 1 ≤ rows.toNat ∧ 1 ≤ cols.toNat ∧ rows.toNat * cols.toNat ≤ s.params.maxDevices) :
    ∃ t, exec (.construct rows cols) s = .next t ∧
      Claims.runAll [.wDisplayTest, .wScanLimit, .wDecode,
        .wIntensity (BitVec.ofNat 4 s.params.initIntensity.val), .wShutdown true, .clrRefresh]
        (((configure s rows.toNat cols.toNat).setIntensity s.params.initIntensity).setShutdown false) =
          .next t := by
  refine ⟨_, execConstruct_of_accepted hconf hvalid, ?_⟩
  rw [bringUp_eq]
  exact runAll_bringUp
    (s := ((configure s rows.toNat cols.toNat).setIntensity s.params.initIntensity).setShutdown false) rfl hchip

end commands

/-- Settles O54, clause by clause. -/
theorem wirePairsMakeThePacket : Obligations.WirePairsMakeThePacket :=
  ⟨fun _ _ _ => bcast_of_wirePair,
    fun _ _ hconf hrow => ⟨refreshRow_trace hconf hrow, fun _ => refreshRow_of_same_byte hconf hrow⟩,
    fun _ _ h hconf hchip => setIntensity_of_wirePair hconf hchip h,
    fun _ b hconf hchip => setShutdown_of_wirePair hconf hchip b,
    fun _ _ _ hconf hchip hr hc hmax => construct_of_wirePairs hconf hchip ⟨hr, hc, hmax⟩⟩

end Sys2Proof.Machine

/-! PROOFS. What bring-up leaves in the chain's registers (70_reset_and_hazards.md R241; 46_config.md R190). -/

namespace Sys2Proof.Machine

section bringUp
variable (s : State) (d : Nat) (a : Byte)

theorem chipReg_setIntensity (v : Fin 16) : (s.setIntensity v).chipReg d a = s.chipReg d a := rfl

theorem chipReg_setShutdown (b : Bool) : (s.setShutdown b).chipReg d a = s.chipReg d a := rfl

theorem chipReg_clearFb : (clearFb s).chipReg d a = s.chipReg d a := rfl

theorem chipReg_respond : (respond s).chipReg d a = s.chipReg d a := rfl

theorem broadcast_params (addr val : Byte) : (broadcast s addr val).params = s.params := rfl

theorem broadcast_deviceCount (addr val : Byte) : (broadcast s addr val).deviceCount = s.deviceCount := rfl

theorem clearFb_deviceCount : (clearFb s).deviceCount = s.deviceCount := rfl

theorem chipReg_broadcast (addr val : Byte) : (broadcast s addr val).chipReg d a =
    if d < s.deviceCount ∧ a = addr then val else s.chipReg d a :=
  chipReg_sendPacket s _ d a

/-- The registers of a device of the grid after bring-up: the last packet that writes a register decides (R190). -/
theorem chipReg_bringUp {d : Nat} (hd : d < s.deviceCount) : (bringUp s).chipReg d a =
    if 1 ≤ a.toNat ∧ a.toNat ≤ 8 then 0x00
    else if a = s.params.chip.regShutdown then s.params.chip.valShutdownOff
    else if a = s.params.chip.regIntensity then BitVec.ofNat 8 s.params.initIntensity.val
    else if a = s.params.chip.regDecode then s.params.chip.valDecodeNone
    else if a = s.params.chip.regScanLimit then s.params.chip.valScanAll
    else if a = s.params.chip.regDisplayTest then s.params.chip.valTestOff
    else s.chipReg d a := by
  unfold bringUp
  dsimp only
  rw [digitsShow_refreshAll]
  simp only [clearFb_deviceCount, chipReg_clearFb, chipReg_setIntensity, chipReg_setShutdown, chipReg_broadcast,
    broadcast_params, broadcast_deviceCount, setIntensity_deviceCount, setShutdown_deviceCount, setIntensity_params,
    hd, true_and]
  rfl

end bringUp

/-- Settles O31: each register of the default map is written by one packet of bring-up, and no other is. -/
theorem constructBringsUpTheChain : Obligations.ConstructBringsUpTheChain := by
  intro s rows cols hconf hchip hrows hcols hmax
  have hexec := execConstruct_of_accepted hconf ⟨hrows, hcols, hmax⟩
  have hfb : (bringUp (configure s rows.toNat cols.toNat)).fb = [] := by rw [bringUp_eq]; rfl
  have hintensity : (bringUp (configure s rows.toNat cols.toNat)).intensity = s.params.initIntensity := by
    rw [bringUp_eq]; rfl
  refine ⟨_, hexec, hintensity, fun d hd => ?_⟩
  have hreg (a : Byte) := chipReg_bringUp (configure s rows.toNat cols.toNat) a (d := d) hd
  rw [show (configure s rows.toNat cols.toNat).params = s.params from rfl, hchip] at hreg
  simp only [chipReg_respond, hreg]
  refine ⟨rfl, rfl, rfl, ?_, rfl, ?_, ?_⟩
  · exact (congrArg (fun v : Fin 16 => BitVec.ofNat 8 v.val) hintensity).symm
  · intro r hr
    have hread : (respond (bringUp (configure s rows.toNat cols.toNat))).fb.read (8 * d + r) = 0x00 :=
      congrArg (Memory.read · (8 * d + r)) hfb
    have hdigit : (BitVec.ofNat 8 (8 - r)).toNat = 8 - r := eq_regDigit_iff.mp rfl
    rw [hread, hdigit, if_pos (by omega)]
    exact ⟨rfl, rfl⟩
  · intro a ha
    simp only [List.mem_cons, List.not_mem_nil, or_false, not_or] at ha
    rw [if_neg (by omega), if_neg, if_neg, if_neg, if_neg, if_neg]
    · rfl
    all_goals
      rintro rfl
      revert ha
      decide

end Sys2Proof.Machine

/-! PROOFS. Shapes switch on the pixels of their rule and nothing else, in whatever order (43_shapes.md R139). -/

namespace Sys2Proof.Machine

/-- Settles O36: plotting a list switches on its pixels in range, and no byte without one is written. -/
theorem shapesOnlySetPixels : Obligations.ShapesOnlySetPixels := by
  intro s i ps hconf hwf hi
  refine ⟨_, exec_of_shapePixels hconf hi, onlyFb_respond_setFb s _, rfl,
    fun x y hxy => readPixel_respond_plot hwf hxy, fun a ha => read_foldl_setPixel_of_ne fun d hd hin => ?_⟩
  obtain ⟨p, hp, rfl⟩ := List.mem_map.mp hd
  exact ha p hp hin

section bytes
variable {R C : Nat} {fb : Memory}

/-- What switching one pixel on does to every bit of every byte (R100). -/
theorem bit_setPixel_on (hwf : fb.wf = true) (p : Int × Int) (a : Nat) {b : Nat} (hb : b < 8) :
    bit ((setPixel R C fb (p, true)).read a) b = true ↔ bit (fb.read a) b = true ∨
      inRange R C p.1 p.2 = true ∧ mapIndex C p.1 p.2 = a ∧ mapBit p.1 = b := by
  cases hin : inRange R C p.1 p.2 with
  | false =>
    rw [setPixel_of_not_inRange hin]
    simp
  | true =>
    rw [setPixel, if_pos hin, Memory.read_write hwf]
    by_cases ha : mapIndex C p.1 p.2 = a
    · rw [if_pos ha, bit_withBit _ (mapBit_lt _) hb, ha]
      by_cases hbit : mapBit p.1 = b <;> simp [hbit]
    · simp [ha]

/-- After plotting, a bit is set when it was set or one of the pixels maps to it (R139). -/
theorem bit_foldl_on (ps : List (Int × Int)) (hwf : fb.wf = true) (a : Nat) {b : Nat} (hb : b < 8) :
    bit (((ps.map fun p => (p, true)).foldl (setPixel R C) fb).read a) b = true ↔ bit (fb.read a) b = true ∨
      ∃ p ∈ ps, inRange R C p.1 p.2 = true ∧ mapIndex C p.1 p.2 = a ∧ mapBit p.1 = b := by
  induction ps generalizing fb with
  | nil => simp
  | cons p ps ih =>
    rw [List.map_cons, List.foldl_cons, ih (setPixel_wf hwf _), bit_setPixel_on hwf p a hb]
    simp only [List.mem_cons, exists_eq_or_imp, or_assoc]

end bytes

/-- Settles O37: the bytes after plotting are given by the set of the pixels, and equal bytes are equal canonical
FrameBuffers. -/
theorem plotOrderDoesNotMatter : Obligations.PlotOrderDoesNotMatter := by
  intro s ps qs hwf hset
  refine congrArg s.setFb (Memory.ext_of_read (plot_wf hwf ps) (plot_wf hwf qs) fun a => ?_)
  apply BitVec.eq_of_getLsbD_eq
  intro b hb
  rw [Bool.eq_iff_iff]
  exact (bit_foldl_on ps hwf a hb).trans (by simp only [hset]; exact (bit_foldl_on qs hwf a hb).symm)

end Sys2Proof.Machine

/-! PROOFS. The symmetry and the extreme pixels of an ellipse (43_shapes.md R141), from its closed form. -/

namespace Sys2Proof.Machine

theorem roundedRoot_neg (along across delta : Int) :
    Claims.roundedRoot along across (-delta) = Claims.roundedRoot along across delta := by
  simp only [Claims.roundedRoot, Int.cast_neg, neg_sq]

/-- At the centre the rounded root is half the axis across, rounded up (R141 (b)). -/
theorem roundedRoot_zero {along across : Int} (halong : 1 ≤ along) (hacross : 1 ≤ across) :
    Claims.roundedRoot along across 0 = (across + 1) / 2 := by
  refine le_antisymm (roundedRoot_le halong hacross) ((le_roundedRoot_iff halong (by omega)).mpr ?_)
  have hsq : (2 * ((across + 1) / 2) - 1) ^ 2 ≤ across ^ 2 := pow_le_pow_left₀ (by omega) (by omega) 2
  rw [zero_pow two_ne_zero, mul_zero, sub_zero]
  exact mul_le_mul_of_nonneg_right hsq (sq_nonneg along)

section onEllipse
variable {h k a b x y : Int}

theorem onEllipse_mirror_x : Claims.OnEllipse h k a b (2 * h - x) y ↔ Claims.OnEllipse h k a b x y := by
  have hneg : 2 * h - x - h = -(x - h) := by ring
  simp only [Claims.OnEllipse, hneg, neg_sq, roundedRoot_neg]
  omega

theorem onEllipse_mirror_y : Claims.OnEllipse h k a b x (2 * k - y) ↔ Claims.OnEllipse h k a b x y := by
  have hneg : 2 * k - y - k = -(y - k) := by ring
  simp only [Claims.OnEllipse, hneg, neg_sq, roundedRoot_neg]
  omega

theorem onEllipse_top (ha : 1 ≤ a) (hb : 1 ≤ b) : Claims.OnEllipse h k a b h (k + (b + 1) / 2) := by
  refine ⟨ha, hb, .inl ⟨?_, .inl ?_⟩⟩
  · rw [sub_self]
    positivity
  · rw [sub_self, roundedRoot_zero ha hb]

theorem onEllipse_right (ha : 1 ≤ a) (hb : 1 ≤ b) : Claims.OnEllipse h k a b (h + (a + 1) / 2) k := by
  refine ⟨ha, hb, .inr ⟨?_, .inl ?_⟩⟩
  · rw [sub_self]
    positivity
  · rw [sub_self, roundedRoot_zero hb ha]

end onEllipse

/-- Settles O46: the closed form knows only the distances from the centre, and at the centre its root is exact. -/
theorem ellipseIsSymmetric : Obligations.EllipseIsSymmetric := by
  intro h k a b x y
  simp only [mem_ellipsePixels]
  exact ⟨onEllipse_mirror_x.symm, onEllipse_mirror_y.symm,
    fun ha hb => ⟨onEllipse_top ha hb, onEllipse_right ha hb⟩⟩

end Sys2Proof.Machine

/-! PROOFS. The shape of a line (43_shapes.md R137): it is a staircase, which moves one column on with every pixel and
climbs by at most one row, or such a staircase with the axes exchanged. -/

namespace Sys2Proof.Machine

/-- The heights of a staircase of `n` steps from `0` to `q`, each of which climbs by 0 or 1. -/
structure Climb (f : Nat → Int) (n : Nat) (q : Int) : Prop where
  zero : f 0 = 0
  last : f n = q
  le_succ : ∀ i, f i ≤ f (i + 1)
  succ_le : ∀ i, f (i + 1) ≤ f i + 1

/-- A first step that climbs by `r`, then the steps of `f`. -/
def climbCons (r : Int) (f : Nat → Int) : Nat → Int
  | 0 => 0
  | i + 1 => f i + r

namespace Climb
variable {f : Nat → Int} {n : Nat} {q r : Int}

theorem cons (h : Climb f n q) (h0 : 0 ≤ r) (h1 : r ≤ 1) : Climb (climbCons r f) (n + 1) (q + r) where
  zero := rfl
  last := congrArg (· + r) h.last
  le_succ i := by
    cases i with
    | zero => simpa [climbCons, h.zero] using h0
    | succ i => simpa [climbCons] using h.le_succ i
  succ_le i := by
    cases i with
    | zero => simpa [climbCons, h.zero] using h1
    | succ i =>
      have := h.succ_le i
      simp only [climbCons]
      omega

theorem level : Climb (fun _ => 0) n 0 where
  zero := rfl
  last := rfl
  le_succ _ := le_rfl
  succ_le _ := zero_le_one

theorem nonneg (h : Climb f n q) (i : Nat) : 0 ≤ f i := h.zero ▸ monotone_nat_of_le_succ h.le_succ (Nat.zero_le i)

theorem le_last (h : Climb f n q) {i : Nat} (hi : i ≤ n) : f i ≤ q :=
  h.last ▸ monotone_nat_of_le_succ h.le_succ hi

theorem le_add (h : Climb f n q) (i k : Nat) : f (i + k) ≤ f i + k := by
  induction k with
  | zero => simp
  | succ k ih =>
    have := h.succ_le (i + k)
    push_cast
    rw [← Nat.add_assoc]
    omega

/-- A staircase that climbs as far as it goes climbs with every step. -/
theorem eq_of_diagonal (h : Climb f n n) {i : Nat} (hi : i ≤ n) : f i = i := by
  have hup := h.le_add 0 i
  have hdown := h.le_add i (n - i)
  rw [Nat.add_sub_of_le hi, h.last] at hdown
  rw [Nat.zero_add, h.zero] at hup
  omega

end Climb

/-- The pixels of a staircase from `(x, y)` in the directions `sx` and `sy`. -/
def stair (x y sx sy : Int) (f : Nat → Int) (n : Nat) : List (Int × Int) :=
  (List.range (n + 1)).map fun i : Nat => (x + i * sx, y + f i * sy)

theorem stair_climbCons (x y sx sy r : Int) (f : Nat → Int) (n : Nat) :
    stair x y sx sy (climbCons r f) (n + 1) = (x, y) :: stair (x + sx) (y + r * sy) sx sy f n := by
  rw [stair, List.range_succ_eq_map, List.map_cons, List.map_map, stair]
  congr 1
  · simp [climbCons]
  · refine List.map_congr_left fun i _ => ?_
    simp only [Function.comp_apply, climbCons, Prod.mk.injEq]
    push_cast
    constructor <;> ring

/-- The list is a staircase from `(x1, y1)` to `(x2, y2)` with a pixel in each column. -/
def IsStair (x1 y1 x2 y2 : Int) (ps : List (Int × Int)) : Prop :=
  ∃ (sx sy q : Int) (n : Nat) (f : Nat → Int), |sx| = 1 ∧ |sy| = 1 ∧ Climb f n q ∧
    x2 = x1 + n * sx ∧ y2 = y1 + q * sy ∧ ps = stair x1 y1 sx sy f n

section walk
variable {dx dy sx sy x2 y2 : Int}

/-- The walk of a line no steeper than diagonal is a staircase: with `n` columns and `q` rows left to go every turn
moves one column on, and the band for the accumulator makes `q = 0` when no column is left. -/
theorem lineWalk_eq_stair (hsx : sx ≠ 0) (hdx : 0 < dx) (hdy : 0 ≤ dy) (hflat : dy ≤ dx) (n : Nat) {x y err q : Int}
    (hx : x2 = x + n * sx) (hy : y2 = y + q * sy) (herr : err = dx - dy + n * dy - q * dx)
    (hlo : -dy < 2 * err) (hhi : 2 * err < 3 * dx - 2 * dy) :
    ∃ f, Climb f n q ∧ lineWalk dx dy sx sy x2 y2 (n + 1) x y err = stair x y sx sy f n := by
  induction n generalizing x y err q with
  | zero =>
    have hq : q = 0 := by
      push_cast at herr
      have hq1 : q < 1 := by nlinarith
      have hq0 : -1 < q := by nlinarith
      omega
    subst hq
    obtain rfl : x2 = x := by simpa using hx
    obtain rfl : y2 = y := by simpa using hy
    exact ⟨_, .level, by simp [lineWalk_at_end, stair]⟩
  | succ n ih =>
    have hend : ¬ (x = x2 ∧ y = y2) := by
      rintro ⟨rfl, -⟩
      have : ((n + 1 : Nat) : Int) * sx ≠ 0 := mul_ne_zero (by omega) hsx
      omega
    rw [lineWalk_succ (n + 1) err hend, if_pos hlo, if_pos hlo]
    push_cast at hx herr
    by_cases hrow : 2 * err < dx
    · obtain ⟨f, hf, hwalk⟩ := ih (x := x + sx) (y := y + sy) (err := err - dy + dx) (q := q - 1)
        (by linarith) (by linarith) (by linarith) (by linarith) (by linarith)
      refine ⟨climbCons 1 f, by simpa using hf.cons zero_le_one le_rfl, ?_⟩
      rw [if_pos hrow, if_pos hrow, hwalk, stair_climbCons, one_mul]
    · have hlt : dy < dx := by
        by_contra
        linarith
      obtain ⟨f, hf, hwalk⟩ := ih (x := x + sx) (y := y) (err := err - dy) (q := q)
        (by linarith) hy (by linarith) (by linarith) (by linarith)
      refine ⟨climbCons 0 f, by simpa using hf.cons le_rfl zero_le_one, ?_⟩
      rw [if_neg hrow, if_neg hrow, add_zero, hwalk, stair_climbCons, zero_mul, add_zero]

end walk

/-- The walk of a line that is not horizontal is a staircase along its longer axis. -/
theorem isStair_lineWalk {x1 y1 x2 y2 : Int} {ps : List (Int × Int)} (hne : y1 ≠ y2)
    (hps : ps = lineWalk |x2 - x1| |y2 - y1| (if x1 < x2 then 1 else -1) (if y1 < y2 then 1 else -1) x2 y2
      ((max |x2 - x1| |y2 - y1|).toNat + 1) x1 y1 (|x2 - x1| - |y2 - y1|)) :
    IsStair x1 y1 x2 y2 ps ∨ IsStair y1 x1 y2 x2 (ps.map Prod.swap) := by
  have hx : x2 = x1 + |x2 - x1| * (if x1 < x2 then 1 else -1) := by grind
  have hy : y2 = y1 + |y2 - y1| * (if y1 < y2 then 1 else -1) := by grind
  have hsx : |(if x1 < x2 then 1 else -1 : Int)| = 1 := by split_ifs <;> rfl
  have hsy : |(if y1 < y2 then 1 else -1 : Int)| = 1 := by split_ifs <;> rfl
  have hdy : 0 < |y2 - y1| := abs_pos.mpr (sub_ne_zero.mpr hne.symm)
  have hdx := abs_nonneg (x2 - x1)
  generalize |x2 - x1| = dx at *
  generalize |y2 - y1| = dy at *
  generalize (if x1 < x2 then 1 else -1 : Int) = sx at *
  generalize (if y1 < y2 then 1 else -1 : Int) = sy at *
  have hsx0 : sx ≠ 0 := by rintro rfl; simp at hsx
  have hsy0 : sy ≠ 0 := by rintro rfl; simp at hsy
  obtain hflat | hsteep := le_total dy dx
  · obtain ⟨n, rfl⟩ := Int.eq_ofNat_of_zero_le hdx
    rw [max_eq_left hflat, Int.toNat_natCast] at hps
    obtain ⟨f, hf, hwalk⟩ := lineWalk_eq_stair (err := n - dy) hsx0 (by omega) hdy.le hflat n hx hy (by ring)
      (by linarith) (by linarith)
    exact .inl ⟨sx, sy, dy, n, f, hsx, hsy, hf, hx, hy, hps.trans hwalk⟩
  · obtain ⟨n, rfl⟩ := Int.eq_ofNat_of_zero_le hdy.le
    rw [max_eq_right hsteep, Int.toNat_natCast] at hps
    obtain ⟨f, hf, hwalk⟩ := lineWalk_eq_stair (err := n - dx) hsy0 hdy hdx hsteep n hy hx (by ring)
      (by linarith) (by linarith)
    refine .inr ⟨sy, sx, dx, n, f, hsy, hsx, hf, hy, hx, ?_⟩
    rw [hps, lineWalk_swap, neg_sub, hwalk]

theorem span_eq_map (lo hi : Int) : span lo hi = (List.range (hi - lo + 1).toNat).map fun i : Nat => lo + i := by
  simp only [span, bind_pure_comp, List.map_eq_map, List.map_map, Function.comp_def]

/-- The pixels of a horizontal line are a level staircase from the smaller `x` (R131). -/
theorem isStair_span {lo hi : Int} (h : lo ≤ hi) (y : Int) : IsStair lo y hi y ((span lo hi).map fun x => (x, y)) := by
  refine ⟨1, 1, 0, (hi - lo).toNat, _, rfl, rfl, .level, by omega, by omega, ?_⟩
  rw [span_eq_map, List.map_map, stair, show (hi - lo + 1).toNat = (hi - lo).toNat + 1 by omega]
  refine List.map_congr_left fun i _ => ?_
  simp

section isStair
variable {x1 y1 x2 y2 : Int} {ps : List (Int × Int)}

theorem mem_stair {x y sx sy a b : Int} {f : Nat → Int} {n : Nat} :
    (a, b) ∈ stair x y sx sy f n ↔ ∃ i : Nat, i ≤ n ∧ a = x + i * sx ∧ b = y + f i * sy := by
  simp only [stair, List.mem_map, List.mem_range, Nat.lt_succ_iff, Prod.mk.injEq, eq_comm (b := a), eq_comm (b := b)]

namespace IsStair

theorem length (h : IsStair x1 y1 x2 y2 ps) : (ps.length : Int) = |x2 - x1| + 1 := by
  obtain ⟨sx, sy, q, n, f, hsx, -, -, rfl, -, rfl⟩ := h
  simp [stair, abs_mul, hsx]

theorem rise_le (h : IsStair x1 y1 x2 y2 ps) : |y2 - y1| ≤ |x2 - x1| := by
  obtain ⟨sx, sy, q, n, f, hsx, hsy, hf, rfl, rfl, rfl⟩ := h
  have hq : q ≤ n := by simpa [hf.zero, hf.last] using hf.le_add 0 n
  have hq0 : 0 ≤ q := hf.last ▸ hf.nonneg n
  simp [abs_mul, hsx, hsy, abs_of_nonneg hq0, hq]

theorem nodup (h : IsStair x1 y1 x2 y2 ps) : ps.Nodup := by
  obtain ⟨sx, sy, q, n, f, hsx, -, -, -, -, rfl⟩ := h
  have hsx0 : sx ≠ 0 := by rintro rfl; simp at hsx
  refine List.nodup_range.map fun i j hij => ?_
  simpa [hsx0] using (Prod.mk.inj hij).1

theorem head? (h : IsStair x1 y1 x2 y2 ps) : ps.head? = some (x1, y1) := by
  obtain ⟨sx, sy, q, n, f, -, -, hf, -, -, rfl⟩ := h
  simp [stair, hf.zero, List.head?_range]

theorem getLast? (h : IsStair x1 y1 x2 y2 ps) : ps.getLast? = some (x2, y2) := by
  obtain ⟨sx, sy, q, n, f, -, -, hf, rfl, rfl, rfl⟩ := h
  simp [stair, hf.last, List.getLast?_range]

theorem isChain (h : IsStair x1 y1 x2 y2 ps) : ps.IsChain fun p q => |q.1 - p.1| ≤ 1 ∧ |q.2 - p.2| ≤ 1 := by
  obtain ⟨sx, sy, q, n, f, hsx, hsy, hf, -, -, rfl⟩ := h
  rw [stair, List.isChain_map, List.isChain_range_succ]
  intro i _
  have hx : x1 + (i + 1 : Nat) * sx - (x1 + i * sx) = sx := by push_cast; ring
  have hy : y1 + f (i + 1) * sy - (y1 + f i * sy) = (f (i + 1) - f i) * sy := by ring
  have hup := hf.le_succ i
  have hup' := hf.succ_le i
  rw [hx, hy, abs_mul, hsx, hsy, mul_one, abs_of_nonneg (by omega)]
  omega

/-- The pixels are the graph of a function over the columns of the staircase. -/
theorem exists_graph (h : IsStair x1 y1 x2 y2 ps) : ∃ g : Int → Int, ∀ x y,
    (x, y) ∈ ps ↔ min x1 x2 ≤ x ∧ x ≤ max x1 x2 ∧ y = g x := by
  obtain ⟨sx, sy, q, n, f, hsx, hsy, hf, rfl, rfl, rfl⟩ := h
  refine ⟨fun x => y1 + f (x - x1).natAbs * sy, fun x y => ?_⟩
  rw [mem_stair]
  obtain rfl | rfl := (abs_eq zero_le_one).mp hsx
  · constructor
    · rintro ⟨i, hi, rfl, rfl⟩
      simp
      omega
    · rintro ⟨h1, h2, rfl⟩
      exact ⟨_, by omega, by omega, rfl⟩
  · constructor
    · rintro ⟨i, hi, rfl, rfl⟩
      simp
      omega
    · rintro ⟨h1, h2, rfl⟩
      exact ⟨_, by omega, by omega, rfl⟩

theorem box (h : IsStair x1 y1 x2 y2 ps) {x y : Int} (hmem : (x, y) ∈ ps) :
    min x1 x2 ≤ x ∧ x ≤ max x1 x2 ∧ min y1 y2 ≤ y ∧ y ≤ max y1 y2 := by
  obtain ⟨sx, sy, q, n, f, hsx, hsy, hf, rfl, rfl, rfl⟩ := h
  obtain ⟨i, hi, rfl, rfl⟩ := mem_stair.mp hmem
  have h0 := hf.nonneg i
  have hq := hf.le_last hi
  obtain rfl | rfl := (abs_eq zero_le_one).mp hsx <;> obtain rfl | rfl := (abs_eq zero_le_one).mp hsy <;> omega

/-- A staircase that climbs as far as it goes has its height equal to its number of steps everywhere. -/
theorem last_eq_of_diagonal {sx sy q : Int} {n : Nat} {f : Nat → Int} (hsx : |sx| = 1) (hsy : |sy| = 1)
    (hf : Climb f n q) (hdiag : |x1 + n * sx - x1| = |y1 + q * sy - y1|) : q = n := by
  have hq := hf.last ▸ hf.nonneg n
  rw [add_sub_cancel_left, add_sub_cancel_left, abs_mul, abs_mul, hsx, hsy, mul_one, mul_one, abs_of_nonneg hq,
    Nat.abs_cast] at hdiag
  exact hdiag.symm

/-- A staircase that climbs as far as it goes is one along the other axis too. -/
theorem swap_of_diagonal (h : IsStair x1 y1 x2 y2 ps) (hdiag : |x2 - x1| = |y2 - y1|) :
    IsStair y1 x1 y2 x2 (ps.map Prod.swap) := by
  obtain ⟨sx, sy, q, n, f, hsx, hsy, hf, rfl, rfl, rfl⟩ := h
  obtain rfl := last_eq_of_diagonal hsx hsy hf hdiag
  refine ⟨sy, sx, n, n, f, hsy, hsx, hf, rfl, rfl, ?_⟩
  rw [stair, List.map_map, stair]
  refine List.map_congr_left fun i hi => ?_
  rw [List.mem_range, Nat.lt_succ_iff] at hi
  simp [hf.eq_of_diagonal hi]

/-- The pixels of such a staircase stand on the diagonal through its start (R137 (f)). -/
theorem abs_eq_of_diagonal (h : IsStair x1 y1 x2 y2 ps) (hdiag : |x2 - x1| = |y2 - y1|) {x y : Int}
    (hmem : (x, y) ∈ ps) : |x - x1| = |y - y1| := by
  obtain ⟨sx, sy, q, n, f, hsx, hsy, hf, rfl, rfl, rfl⟩ := h
  obtain rfl := last_eq_of_diagonal hsx hsy hf hdiag
  obtain ⟨i, hi, rfl, rfl⟩ := mem_stair.mp hmem
  rw [add_sub_cancel_left, add_sub_cancel_left, abs_mul, abs_mul, hsx, hsy, hf.eq_of_diagonal hi]

theorem existsUnique_column (h : IsStair x1 y1 x2 y2 ps) {x : Int} (hlo : min x1 x2 ≤ x) (hhi : x ≤ max x1 x2) :
    ∃! y, (x, y) ∈ ps := by
  obtain ⟨g, hg⟩ := h.exists_graph
  simp only [hg, hlo, hhi, true_and, existsUnique_eq]

end IsStair
end isStair

/-- What R137 says of the pixels of a line between `(x1, y1)` and `(x2, y2)`, alike in both axes. -/
structure LineShape (x1 y1 x2 y2 : Int) (ps : List (Int × Int)) : Prop where
  length : (ps.length : Int) = max |x2 - x1| |y2 - y1| + 1
  nodup : ps.Nodup
  first : (x1, y1) ∈ ps
  last : (x2, y2) ∈ ps
  box : ∀ x y, (x, y) ∈ ps → min x1 x2 ≤ x ∧ x ≤ max x1 x2 ∧ min y1 y2 ≤ y ∧ y ≤ max y1 y2
  column : |y2 - y1| ≤ |x2 - x1| → ∀ x, min x1 x2 ≤ x → x ≤ max x1 x2 → ∃! y, (x, y) ∈ ps
  row : |x2 - x1| ≤ |y2 - y1| → ∀ y, min y1 y2 ≤ y → y ≤ max y1 y2 → ∃! x, (x, y) ∈ ps
  isChain : ps.IsChain fun p q => |q.1 - p.1| ≤ 1 ∧ |q.2 - p.2| ≤ 1
  diagonal : |x2 - x1| = |y2 - y1| → ∀ x y, (x, y) ∈ ps → |x - x1| = |y - y1|

namespace LineShape
variable {x1 y1 x2 y2 y : Int} {ps : List (Int × Int)}

theorem of_isStair (h : IsStair x1 y1 x2 y2 ps) : LineShape x1 y1 x2 y2 ps where
  length := by rw [h.length, max_eq_left h.rise_le]
  nodup := h.nodup
  first := List.mem_of_mem_head? h.head?
  last := List.mem_of_getLast? h.getLast?
  box _ _ := h.box
  column _ _ := h.existsUnique_column
  row hle y hlo hhi := by
    simpa only [List.mem_map_swap] using (h.swap_of_diagonal (hle.antisymm h.rise_le)).existsUnique_column hlo hhi
  isChain := h.isChain
  diagonal hdiag _ _ := h.abs_eq_of_diagonal hdiag

theorem swap (h : LineShape x1 y1 x2 y2 ps) : LineShape y1 x1 y2 x2 (ps.map Prod.swap) where
  length := by rw [List.length_map, h.length, max_comm]
  nodup := h.nodup.map Prod.swap_injective
  first := (List.mem_map_swap x1 y1 ps).mpr h.first
  last := (List.mem_map_swap x2 y2 ps).mpr h.last
  box x y hmem := by
    obtain ⟨hy1, hy2, hx1, hx2⟩ := h.box y x ((List.mem_map_swap y x ps).mp hmem)
    exact ⟨hx1, hx2, hy1, hy2⟩
  column hle x hlo hhi := by simpa only [List.mem_map_swap] using h.row hle x hlo hhi
  row hle y hlo hhi := by simpa only [List.mem_map_swap] using h.column hle y hlo hhi
  isChain := (List.isChain_map _).mpr (h.isChain.imp fun _ _ => And.symm)
  diagonal hdiag x y hmem := (h.diagonal hdiag.symm y x ((List.mem_map_swap y x ps).mp hmem)).symm

/-- A horizontal line read from its other end. -/
theorem symm_of_level (h : LineShape x1 y x2 y ps) : LineShape x2 y x1 y ps where
  length := by rw [abs_sub_comm, h.length]
  nodup := h.nodup
  first := h.last
  last := h.first
  box := by simpa only [min_comm, max_comm] using h.box
  column := by simpa only [min_comm, max_comm, abs_sub_comm] using h.column
  row := by simpa only [min_comm, max_comm, abs_sub_comm] using h.row
  isChain := h.isChain
  diagonal hdiag a b hmem := by
    have hbox := h.box a b hmem
    obtain rfl : x1 = x2 := by simpa [sub_eq_zero] using hdiag
    exact h.diagonal hdiag a b hmem

theorem mem_iff_of_vertical (h : LineShape x1 y1 x2 y2 ps) (hx : x1 = x2) (x y : Int) :
    (x, y) ∈ ps ↔ x = x1 ∧ min y1 y2 ≤ y ∧ y ≤ max y1 y2 := by
  subst hx
  constructor
  · intro hmem
    have hbox := h.box x y hmem
    omega
  · rintro ⟨rfl, hlo, hhi⟩
    obtain ⟨x', hmem, -⟩ := h.row (by simp) y hlo hhi
    have hbox := h.box x' y hmem
    obtain rfl : x = x' := by omega
    exact hmem

theorem mem_iff_of_diagonal (h : LineShape x1 y1 x2 y2 ps) (hdiag : |x2 - x1| = |y2 - y1|) (x y : Int) :
    (x, y) ∈ ps ↔
      min x1 x2 ≤ x ∧ x ≤ max x1 x2 ∧ min y1 y2 ≤ y ∧ y ≤ max y1 y2 ∧ |x - x1| = |y - y1| := by
  constructor
  · intro hmem
    obtain ⟨hx1, hx2, hy1, hy2⟩ := h.box x y hmem
    exact ⟨hx1, hx2, hy1, hy2, h.diagonal hdiag x y hmem⟩
  · rintro ⟨hx1, hx2, hy1, hy2, hxy⟩
    obtain ⟨y', hmem, -⟩ := h.column hdiag.ge x hx1 hx2
    have hbox := h.box x y' hmem
    have hxy' := h.diagonal hdiag x y' hmem
    -- both rows lie on the same side of the start
    obtain rfl : y = y' := by
      rw [hxy, abs_eq_abs] at hxy'
      omega
    exact hmem

end LineShape

section line
variable {R C : Nat} {x1 y1 x2 y2 : Int}

theorem linePixels_of_level (h1 : inRange R C x1 y1 = true) (h2 : inRange R C x2 y1 = true) :
    linePixels R C x1 y1 x2 y1 = (span (min x1 x2) (max x1 x2)).map fun x => (x, y1) := by
  simp [linePixels, h1, h2]

theorem linePixels_of_ne (h1 : inRange R C x1 y1 = true) (h2 : inRange R C x2 y2 = true) (hne : y1 ≠ y2) :
    linePixels R C x1 y1 x2 y2 =
      lineWalk |x2 - x1| |y2 - y1| (if x1 < x2 then 1 else -1) (if y1 < y2 then 1 else -1) x2 y2
        ((max |x2 - x1| |y2 - y1|).toNat + 1) x1 y1 (|x2 - x1| - |y2 - y1|) := by
  simp [linePixels, h1, h2, hne]

theorem map_swap_swap (ps : List (Int × Int)) : (ps.map Prod.swap).map Prod.swap = ps := by
  simp

/-- A line has the shape of R137, horizontal or not, and whichever axis is the longer. -/
theorem lineShape_linePixels (h1 : inRange R C x1 y1 = true) (h2 : inRange R C x2 y2 = true) :
    LineShape x1 y1 x2 y2 (linePixels R C x1 y1 x2 y2) := by
  by_cases hy : y1 = y2
  · subst hy
    rw [linePixels_of_level h1 h2]
    obtain hx | hx := le_total x1 x2
    · rw [min_eq_left hx, max_eq_right hx]
      exact .of_isStair (isStair_span hx y1)
    · rw [min_eq_right hx, max_eq_left hx]
      exact (LineShape.of_isStair (isStair_span hx y1)).symm_of_level
  · obtain hflat | hsteep := isStair_lineWalk hy (linePixels_of_ne h1 h2 hy)
    · exact .of_isStair hflat
    · simpa only [map_swap_swap] using (LineShape.of_isStair hsteep).swap

/-- A line that is not horizontal starts at its first endpoint and ends at its second (R137 (c)). -/
theorem ends_linePixels (h1 : inRange R C x1 y1 = true) (h2 : inRange R C x2 y2 = true) (hy : y1 ≠ y2) :
    (linePixels R C x1 y1 x2 y2).head? = some (x1, y1) ∧ (linePixels R C x1 y1 x2 y2).getLast? = some (x2, y2) := by
  obtain hflat | hsteep := isStair_lineWalk hy (linePixels_of_ne h1 h2 hy)
  · exact ⟨hflat.head?, hflat.getLast?⟩
  · rw [← map_swap_swap (linePixels R C x1 y1 x2 y2), List.head?_map, List.getLast?_map, hsteep.head?,
      hsteep.getLast?]
    exact ⟨rfl, rfl⟩

end line

/-- Settles O40: the staircase has a pixel for each step of the longer axis and stays between its ends. -/
theorem lineReachesItsEnd : Obligations.LineReachesItsEnd := by
  intro R C x1 y1 x2 y2 h1 h2
  have h := lineShape_linePixels h1 h2
  refine ⟨h.length, h.nodup, h.first, h.last, ends_linePixels h1 h2, fun p hp => ?_⟩
  obtain ⟨hx1, hx2, hy1, hy2⟩ := h.box p.1 p.2 hp
  rw [inRange_iff] at h1 h2 ⊢
  omega

/-- Settles O41: the staircase has one pixel per step of the longer axis, next to the one before. -/
theorem lineIsConnected : Obligations.LineIsConnected := by
  intro R C x1 y1 x2 y2 h1 h2
  have h := lineShape_linePixels h1 h2
  exact ⟨h.column, h.row, h.isChain, h.mem_iff_of_vertical, h.mem_iff_of_diagonal⟩

end Sys2Proof.Machine
